-- ==== Sys2Proof/Word.lean ====
section
/-! DEFINITION. The bit vectors of the model: what the spec treats as bits, and nothing else. -/

namespace Sys2Proof

/-- One byte of a request frame. -/
abbrev Byte := BitVec 8

/-- The 32-bit word of EDECCR, DBGOSECCR and OSECCR_EL1[31:0] (10_state.md R10, R44). -/
abbrev Word := BitVec 32

/-- A 64-bit value: the contents of `Xt`, or a displacement from DEBUG_BASE. -/
abbrev Dword := BitVec 64

end Sys2Proof
end

