-- ==== Sys2Proof/Syntax.lean ====
section
/-! DEFINITION. The six access operations, one constructor per row of spec/opcode_table.json
(30_encoding.md R68). -/

namespace Sys2Proof

/-- The access operations. The general registers `Xt` and `Rt` are outside the unit (10_state.md R46):
an operation carries the register's number `t`, which the unit hands back with a read's result, and,
for a write, the contents `x` the processing element sends. -/
inductive Instr where
  /-- `EXT.RD EDECCR` (40_register_access.md R80) -/
  | extRd
  /-- `EXT.WR EDECCR` of the 32-bit value `v` (40_register_access.md R81) -/
  | extWr (v : Word)
  /-- `SYS64.RD OSECCR_EL1` into `Xt` (40_register_access.md R82) -/
  | sys64Rd (t : Nat)
  /-- `SYS64.WR OSECCR_EL1` from `Xt`, which holds `x` (40_register_access.md R83) -/
  | sys64Wr (t : Nat) (x : Dword)
  /-- `SYS32.RD DBGOSECCR` into `Rt` (40_register_access.md R84) -/
  | sys32Rd (t : Nat)
  /-- `SYS32.WR DBGOSECCR` from `Rt`, which holds `x` (40_register_access.md R85) -/
  | sys32Wr (t : Nat) (x : Word)
  deriving DecidableEq, Repr

end Sys2Proof
end

