-- ==== Sys2Proof/Config.lean ====
section
/-! DEFINITION. The names the page uses (fields, targets, kinds) and the implementation parameters
P1 to P10 of 00_scope.md section 4, as plain data; and the constants nothing fixes, without a body. -/

namespace Sys2Proof

/-- The 23 named one-bit cells of the word, from bit 31 down (10_state.md R12 to R38). -/
inductive FieldName where
  | rtr3 | rte3
  | rlr2 | rlr1 | rlr0 | rle2 | rle1
  | nsr3 | nsr2 | nsr1 | nsr0
  | sr3 | sr2 | sr1 | sr0
  | nse3 | nse2 | nse1 | nse0
  | se3 | se2 | se1 | se0
  deriving DecidableEq, Repr

/-- The eleven levels an arrival can be at, in the page's order (41_exception_catch_control.md R101). -/
inductive Target where
  | rootEL3
  | realmEL2 | realmEL1 | realmEL0
  | nonSecureEL2 | nonSecureEL1 | nonSecureEL0
  | el3
  | secureEL2 | secureEL1 | secureEL0
  deriving DecidableEq, Repr

/-- The kinds of arrival `Entry`, `ResetEntry`, `Return` (41_exception_catch_control.md R100). -/
inductive Kind where
  | entry | resetEntry | exceptionReturn
  deriving DecidableEq, Repr

/-- The alternative definition a field takes (10_state.md R41; 00_scope.md P2). -/
inductive Variant where
  | fine | coarse | res0
  deriving DecidableEq, Repr

/-- What a RES0 bit does on a write (10_state.md R39; 00_scope.md P3): reads as zero and ignores
writes, or stores. -/
inductive Res0Kind where
  | razWi | storage
  deriving DecidableEq, Repr

/-- The two kinds of reset (70_reset_and_hazards.md R180). -/
inductive ResetKind where
  | cold | warm
  deriving DecidableEq, Repr

/-- How an arrival at Exception level 3, named by level only, consults the pairs (SE3, SR3) and
(RTE3, RTR3) (41_exception_catch_control.md R145; 00_scope.md P9). `unstated` is the conservative
treatment: both pairs are consulted and the outcome is a free draw where they differ. -/
inductive El3PairRule where
  | el3Pair | rootPair | unstated
  deriving DecidableEq, Repr

/-- Whether a write is seen by the event decision at once (00_scope.md P10; 70_reset_and_hazards.md
R186). `unstated`: an arrival not ordered after a write may see the value before it or after it. -/
inductive EffectDelay where
  | atOnce | unstated
  deriving DecidableEq, Repr

/-- The answer of the access oracle to one external access (40_register_access.md R90). -/
inductive ExtAccess where
  | rw | ro | error
  deriving DecidableEq, Repr

/-- The environment's permission for one System register access (40_register_access.md section 3). -/
inductive SysAccess where
  | allowed | notAllowed
  deriving DecidableEq, Repr

/-- `LAYOUT_HI` (10_state.md R11(c); 00_scope.md P1): the widths of the four reserved cells, from the
left. They fix the positions of RTE3, RLR2, RLR1, RLR0, RLE2 and RLE1, since the order of the 27 cells
is the source's. -/
structure LayoutHi where
  /-- width of the reserved cell between RTR3 and RTE3 (R13) -/
  afterRTR3 : Nat
  /-- width of the reserved cell between RTE3 and RLR2 (R15) -/
  afterRTE3 : Nat
  /-- width of the reserved cell between RLR0 and RLE2 (R19) -/
  afterRLR0 : Nat
  /-- width of the reserved cell between RLE1 and NSR3 (R22) -/
  afterRLE1 : Nat
  deriving DecidableEq, Repr

/-- `variant(F)` for the 19 fields that have a meaning (10_state.md R41; 00_scope.md P2). The four
named RES0 fields (10_state.md R40) have no entry. -/
structure Variants where
  rtr3 : Variant
  rte3 : Variant
  rlr2 : Variant
  rlr1 : Variant
  rlr0 : Variant
  rle2 : Variant
  rle1 : Variant
  nsr2 : Variant
  nsr1 : Variant
  nsr0 : Variant
  sr3 : Variant
  sr2 : Variant
  sr1 : Variant
  sr0 : Variant
  nse2 : Variant
  nse1 : Variant
  se3 : Variant
  se2 : Variant
  se1 : Variant
  deriving DecidableEq, Repr

/-- A subset of the reset kinds: `RESETS_ON` (10_state.md R42; 00_scope.md P4). -/
structure ResetKinds where
  cold : Bool
  warm : Bool
  deriving DecidableEq, Repr

/-- A subset of the arrival kinds: `COARSE_KINDS` (41_exception_catch_control.md R140; 00_scope.md P8). -/
structure KindSet where
  entry : Bool
  resetEntry : Bool
  exceptionReturn : Bool
  deriving DecidableEq, Repr

/-- `RESET_ENTRY_CATCH`, indexed by target (41_exception_catch_control.md R103; 00_scope.md P7), for
the six targets whose tables mention a reset entry. -/
structure ResetEntryCatch where
  rootEL3 : Bool
  nonSecureEL2 : Bool
  nonSecureEL1 : Bool
  el3 : Bool
  secureEL2 : Bool
  secureEL1 : Bool
  deriving DecidableEq, Repr

/-- The configuration of one implementation (00_scope.md section 4). P5 is an input of each access and
P6 is `Config.debugBase`. -/
structure Config where
  layoutHi : LayoutHi
  variants : Variants
  res0Kind : Res0Kind
  resetValue : Word
  resetsOn : ResetKinds
  resetEntryCatch : ResetEntryCatch
  coarseKinds : KindSet
  el3PairRule : El3PairRule
  effectDelay : EffectDelay
  deriving DecidableEq, Repr

/-- `DEBUG_BASE` (20_memory.md R51; 00_scope.md P6): open, no default. -/
opaque Config.debugBase : Dword

/-- The implementation's choice of `RESET_ENTRY_CATCH` at each target
(41_exception_catch_control.md R103): open, no default. -/
opaque Config.resetEntryChoice : Target → Bool

/-- The n-th free draw: what happens where the spec admits both outcomes of an arrival
(41_exception_catch_control.md R145; 70_reset_and_hazards.md R186). -/
opaque Config.freeDraw : Nat → Bool

end Sys2Proof
end

