-- ==== Sys2Proof/Machine/Operands.lean ====
section
/-! DEFINITION. The word format: where each field stands, how a field is read from a word and a word
assembled from fields, the masks of 10_state.md section 2 and 40_register_access.md R88, and the
widths in which the three views carry the word (30_encoding.md R66, R67). -/

namespace Sys2Proof

/-- The 23 named fields, from bit 31 down (10_state.md section 2). -/
def FieldName.all : List FieldName :=
  [.rtr3, .rte3, .rlr2, .rlr1, .rlr0, .rle2, .rle1, .nsr3, .nsr2, .nsr1, .nsr0,
   .sr3, .sr2, .sr1, .sr0, .nse3, .nse2, .nse1, .nse0, .se3, .se2, .se1, .se0]

/-- The position of a field in the word (10_state.md R11): bits 31 and 15 to 0 are the source's; the
six between follow from the order of the cells and the widths of the reserved cells. -/
def LayoutHi.pos (l : LayoutHi) : FieldName → Nat
  | .rtr3 => 31
  | .rte3 => 30 - l.afterRTR3
  | .rlr2 => 29 - l.afterRTR3 - l.afterRTE3
  | .rlr1 => 28 - l.afterRTR3 - l.afterRTE3
  | .rlr0 => 27 - l.afterRTR3 - l.afterRTE3
  | .rle2 => 26 - l.afterRTR3 - l.afterRTE3 - l.afterRLR0
  | .rle1 => 25 - l.afterRTR3 - l.afterRTE3 - l.afterRLR0
  | .nsr3 => 15
  | .nsr2 => 14
  | .nsr1 => 13
  | .nsr0 => 12
  | .sr3 => 11
  | .sr2 => 10
  | .sr1 => 9
  | .sr0 => 8
  | .nse3 => 7
  | .nse2 => 6
  | .nse1 => 5
  | .nse0 => 4
  | .se3 => 3
  | .se2 => 2
  | .se1 => 1
  | .se0 => 0

/-- The alternative a field takes (10_state.md R41); the four named RES0 fields are reserved in every
configuration (10_state.md R40). -/
def Config.variant (c : Config) : FieldName → Variant
  | .rtr3 => c.variants.rtr3
  | .rte3 => c.variants.rte3
  | .rlr2 => c.variants.rlr2
  | .rlr1 => c.variants.rlr1
  | .rlr0 => c.variants.rlr0
  | .rle2 => c.variants.rle2
  | .rle1 => c.variants.rle1
  | .nsr3 => .res0
  | .nsr2 => c.variants.nsr2
  | .nsr1 => c.variants.nsr1
  | .nsr0 => c.variants.nsr0
  | .sr3 => c.variants.sr3
  | .sr2 => c.variants.sr2
  | .sr1 => c.variants.sr1
  | .sr0 => c.variants.sr0
  | .nse3 => .res0
  | .nse2 => c.variants.nse2
  | .nse1 => c.variants.nse1
  | .nse0 => .res0
  | .se3 => c.variants.se3
  | .se2 => c.variants.se2
  | .se1 => c.variants.se1
  | .se0 => .res0

/-- The position of a field under a configuration. -/
def Config.pos (c : Config) (f : FieldName) : Nat := c.layoutHi.pos f

/-- A field with a meaning under the configuration, `fine` or `coarse`: one bit of storage
(10_state.md R45). -/
def Config.active (c : Config) (f : FieldName) : Bool := c.variant f != .res0

/-- The word with bit `n` set alone. -/
def bitMask (n : Nat) : Word := 1#32 <<< n

/-- The word assembled from field values, reserved bits 0 (30_encoding.md R66). -/
def Config.assembleFrom (c : Config) (value : FieldName → Bool) : List FieldName → Word
  | [] => 0#32
  | f :: fs => (if value f then bitMask (c.pos f) else 0#32) ||| c.assembleFrom value fs

/-- Assembly over the 23 named fields (30_encoding.md R66). -/
def Config.assemble (c : Config) (value : FieldName → Bool) : Word :=
  c.assembleFrom value FieldName.all

/-- The bit stored at a field's position, `EDECCR[pos(F)]` (30_encoding.md R66). -/
def Config.storedField (c : Config) (v : Word) (f : FieldName) : Bool := v.getLsbD (c.pos f)

/-- The field as the meaning rules read it: 0 under `res0` whatever is stored
(41_exception_catch_control.md R141). -/
def Config.fieldBit (c : Config) (v : Word) (f : FieldName) : Bool :=
  c.active f && c.storedField v f

/-- The mask of the bits that hold a meaning under the configuration. -/
def Config.activeMask (c : Config) : Word := c.assemble c.active

/-- `WMASK`: the bits that are storage (40_register_access.md R88). -/
def Config.wmask (c : Config) : Word :=
  match c.res0Kind with
  | .razWi => c.activeMask
  | .storage => 0xFFFFFFFF#32

/-- Whether a reset of kind `k` applies the reset value, `k` in `RESETS_ON` (10_state.md R42). -/
def Config.resetsOnKind (c : Config) : ResetKind → Bool
  | .cold => c.resetsOn.cold
  | .warm => c.resetsOn.warm

/-- The value the register takes when a reset applies: `RESET_VALUE` in the fields that hold a
meaning, 0 in every reserved bit (10_state.md R42 and its reset summary). -/
def Config.valueAtReset (c : Config) : Word := c.resetValue &&& c.activeMask

/-- `zext_64`: the word as a System register read puts it into `Xt` (30_encoding.md R67). -/
def zext64 (v : Word) : Dword := v.setWidth 64

/-- `Xt[31:0]`: the word a System register write takes from `Xt` (30_encoding.md R67). -/
def lowWord (x : Dword) : Word := x.setWidth 32

/-- The byte of the word at byte lane `i`, for `DEBUG_BASE + 0x098 + i`, little-endian
(20_memory.md R53, a convention for traces only). -/
def byteLane (v : Word) (i : Nat) : Byte := v.extractLsb' (8 * i) 8

end Sys2Proof
end

