-- ==== Sys2Proof/Machine/CatchControl.lean ====
section
/-! DEFINITION. The query `CatchEnabled` (41_exception_catch_control.md R146): which Exception Catch
debug events a register value enables under a configuration. Pure functions; the unit has no flags. -/

namespace Sys2Proof

/-- The entry control of a target; the EL0 targets have none (41_exception_catch_control.md R102, R143). -/
def Target.entryControl : Target → Option FieldName
  | .rootEL3 => some .rte3
  | .realmEL2 => some .rle2
  | .realmEL1 => some .rle1
  | .realmEL0 => none
  | .nonSecureEL2 => some .nse2
  | .nonSecureEL1 => some .nse1
  | .nonSecureEL0 => none
  | .el3 => some .se3
  | .secureEL2 => some .se2
  | .secureEL1 => some .se1
  | .secureEL0 => none

/-- The return control of a target (41_exception_catch_control.md R102). -/
def Target.returnControl : Target → FieldName
  | .rootEL3 => .rtr3
  | .realmEL2 => .rlr2
  | .realmEL1 => .rlr1
  | .realmEL0 => .rlr0
  | .nonSecureEL2 => .nsr2
  | .nonSecureEL1 => .nsr1
  | .nonSecureEL0 => .nsr0
  | .el3 => .sr3
  | .secureEL2 => .sr2
  | .secureEL1 => .sr1
  | .secureEL0 => .sr0

/-- `hasReset(t)`: the targets whose tables mention a reset entry (41_exception_catch_control.md R102, R144). -/
def Target.hasReset : Target → Bool
  | .rootEL3 => true
  | .realmEL2 => false
  | .realmEL1 => false
  | .realmEL0 => false
  | .nonSecureEL2 => true
  | .nonSecureEL1 => true
  | .nonSecureEL0 => false
  | .el3 => true
  | .secureEL2 => true
  | .secureEL1 => true
  | .secureEL0 => false

/-- `RESET_ENTRY_CATCH` at a target (41_exception_catch_control.md R103); a target without a reset
entry has no choice to make. -/
def Config.catchesReset (c : Config) : Target → Bool
  | .rootEL3 => c.resetEntryCatch.rootEL3
  | .realmEL2 => false
  | .realmEL1 => false
  | .realmEL0 => false
  | .nonSecureEL2 => c.resetEntryCatch.nonSecureEL2
  | .nonSecureEL1 => c.resetEntryCatch.nonSecureEL1
  | .nonSecureEL0 => false
  | .el3 => c.resetEntryCatch.el3
  | .secureEL2 => c.resetEntryCatch.secureEL2
  | .secureEL1 => c.resetEntryCatch.secureEL1
  | .secureEL0 => false

/-- `k in COARSE_KINDS` (41_exception_catch_control.md R140). -/
def Config.coarseCovers (c : Config) : Kind → Bool
  | .entry => c.coarseKinds.entry
  | .resetEntry => c.coarseKinds.resetEntry
  | .exceptionReturn => c.coarseKinds.exceptionReturn

/-- `E(t)`: the entry control as the meaning rules read it, 0 if `t` has none (41_exception_catch_control.md R102). -/
def Config.entryBit (c : Config) (v : Word) (t : Target) : Bool :=
  match t.entryControl with
  | some f => c.fieldBit v f
  | none => false

/-- `R(t)`: the return control as the meaning rules read it (41_exception_catch_control.md R102). -/
def Config.returnBit (c : Config) (v : Word) (t : Target) : Bool := c.fieldBit v t.returnControl

/-- A reset entry can be caught at `t`: the tables mention it and the implementation catches it
(41_exception_catch_control.md R103, R144). -/
def Config.resetCaught (c : Config) (t : Target) : Bool := t.hasReset && c.catchesReset t

/-- The law of a `fine` pair (41_exception_catch_control.md R139). -/
def Config.fineEnabled (c : Config) (v : Word) (t : Target) : Kind → Bool
  | .entry => c.entryBit v t
  | .exceptionReturn => c.entryBit v t != c.returnBit v t
  | .resetEntry => c.entryBit v t && c.resetCaught t

/-- The law of a `coarse` control (41_exception_catch_control.md R140). -/
def Config.coarseEnabled (c : Config) (v : Word) (t : Target) (k : Kind) : Bool :=
  c.entryBit v t && c.coarseCovers k && (k != .resetEntry || c.resetCaught t)

/-- The law of a target with a return control only (41_exception_catch_control.md R143). -/
def Config.returnOnlyEnabled (c : Config) (v : Word) (t : Target) (k : Kind) : Bool :=
  k == .exceptionReturn && c.returnBit v t

/-- `CatchEnabled(v, cfg, t, k)`, the whole function (41_exception_catch_control.md R146). -/
def Config.catchEnabled (c : Config) (v : Word) (t : Target) (k : Kind) : Bool :=
  match t.entryControl with
  | none => c.returnOnlyEnabled v t k
  | some f => if c.variant f = .coarse then c.coarseEnabled v t k else c.fineEnabled v t k

/-- The outcomes an arrival of kind `k` at Exception level 3, named by level only, may have under a
value: one for each pair it may consult (41_exception_catch_control.md R145). DESIGN CHOICE (log 11): a
pair whose two controls are both `res0` is consulted like any other and enables nothing; the spec calls
the choice open only where both pairs are present (60_exceptions.md R154) and does not say what makes a
pair present. -/
def Config.el3Outcomes (c : Config) (v : Word) (k : Kind) : List Bool :=
  match c.el3PairRule with
  | .el3Pair => [c.catchEnabled v .el3 k]
  | .rootPair => [c.catchEnabled v .rootEL3 k]
  | .unstated => [c.catchEnabled v .el3 k, c.catchEnabled v .rootEL3 k]

end Sys2Proof
end

