-- ==== Sys2Proof/WellFormed.lean ====
section
/-! DEFINITION. Which configurations the source admits (10_state.md R11, R41) and which register
numbers an access may carry. All checks are Booleans. -/

namespace Sys2Proof

/-- Each reserved cell is at least one bit wide and the four cover nine bits (10_state.md R11). -/
def LayoutHi.wf (l : LayoutHi) : Bool :=
  decide (1 ≤ l.afterRTR3) && decide (1 ≤ l.afterRTE3) && decide (1 ≤ l.afterRLR0) &&
    decide (1 ≤ l.afterRLE1) &&
    decide (l.afterRTR3 + l.afterRTE3 + l.afterRLR0 + l.afterRLE1 = 9)

/-- The four fields for which the page prints a coarse alternative (10_state.md R32, R33, R35, R37). -/
def FieldName.mayBeCoarse : FieldName → Bool
  | .nse2 => true
  | .nse1 => true
  | .se3 => true
  | .se1 => true
  | .rtr3 => false
  | .rte3 => false
  | .rlr2 => false
  | .rlr1 => false
  | .rlr0 => false
  | .rle2 => false
  | .rle1 => false
  | .nsr3 => false
  | .nsr2 => false
  | .nsr1 => false
  | .nsr0 => false
  | .sr3 => false
  | .sr2 => false
  | .sr1 => false
  | .sr0 => false
  | .nse3 => false
  | .nse0 => false
  | .se2 => false
  | .se0 => false

/-- The eleven targets. -/
def Target.all : List Target :=
  [.rootEL3, .realmEL2, .realmEL1, .realmEL0, .nonSecureEL2, .nonSecureEL1, .nonSecureEL0,
   .el3, .secureEL2, .secureEL1, .secureEL0]

/-- Only the four fields of `mayBeCoarse` take the coarse alternative (00_scope.md P2). -/
def Config.coarseWhereAllowed (c : Config) : Bool :=
  FieldName.all.all fun f => c.variant f != .coarse || f.mayBeCoarse

/-- A coarse entry control has a `res0` return control (10_state.md R41). -/
def Config.coarseStandsAlone (c : Config) : Bool :=
  Target.all.all fun t =>
    match t.entryControl with
    | some f => c.variant f != .coarse || c.variant t.returnControl == .res0
    | none => true

/-- A configuration the source admits (10_state.md R11, R41). -/
def Config.wf (c : Config) : Bool :=
  c.layoutHi.wf && c.coarseWhereAllowed && c.coarseStandsAlone

/-- An access whose register number its state has: 32 numbers in AArch64 state, 16 in AArch32 state
(PRESUMED, log 22). -/
def Instr.wf : Instr → Bool
  | .extRd => true
  | .extWr _ => true
  | .sys64Rd t => decide (t < 32)
  | .sys64Wr t _ => decide (t < 32)
  | .sys32Rd t => decide (t < 16)
  | .sys32Wr t _ => decide (t < 16)

end Sys2Proof
end

