-- ==== Sys2Proof/Decode.lean ====
section
/-! DEFINITION. From the bytes of a request to an access operation, and back.

The source gives an operation no binary encoding: an external access is selected by an address, a
width and a direction, a System register access by a register name and a direction (30_encoding.md
R68, R69). A request travels in a frame of sixteen bytes of the model's own (DESIGN CHOICE, log 18):

| bits | external debug interface | System register |
|---|---|---|
| 63..0 | address, as a displacement from DEBUG_BASE | contents of `Xt` or `Rt` for a write |
| 71..64 | 0 | 1: AArch64, 2: AArch32 |
| 79..72 | 0: read, 1: write | 0: read, 1: write |
| 87..80 | width, 0: 4 bytes, 1: 1 byte, 2: 2 bytes, 3: 8 bytes | 0: OSECCR_EL1 or DBGOSECCR, else another register |
| 95..88 | not looked at | `t` |
| 127..96 | the data word of a write | not looked at |

The table's bits stand where the table has them: the offset of the external rows in bits 11..0, the
data word of the System register rows in bits 31..0. -/

namespace Sys2Proof

/-- The direction of an access (30_encoding.md R68). -/
inductive Direction where
  | read | write
  deriving DecidableEq, Repr

/-- The widths of an external access the spec speaks of (20_memory.md R54). -/
inductive AccessWidth where
  | one | two | four | eight
  deriving DecidableEq, Repr

/-- Which System register an access names: the one mapped onto EDECCR, or another (40_register_access.md R91). -/
inductive SysRegister where
  | mapped | other
  deriving DecidableEq, Repr

/-- A request as its frame says it, before anyone asks whether it is an operation of the unit. -/
inductive Request where
  /-- an access on the external debug interface, its address a displacement from DEBUG_BASE -/
  | ext (dir : Direction) (displacement : Dword) (width : AccessWidth) (data : Word)
  /-- an AArch64 System register access -/
  | sys64 (dir : Direction) (reg : SysRegister) (t : Nat) (x : Dword)
  /-- an AArch32 System register access -/
  | sys32 (dir : Direction) (reg : SysRegister) (t : Nat) (x : Word)
  deriving DecidableEq, Repr

/-- Why a request is not taken. -/
inductive Reject where
  /-- the bytes are no request frame -/
  | malformedFrame
  /-- an access that overlaps the register without being the aligned 32-bit access (40_register_access.md R92) -/
  | partialAccess
  deriving DecidableEq, Repr

/-- What the decoder answers. -/
inductive Decoded where
  /-- an operation of the unit -/
  | op (i : Instr)
  /-- an access to something else, passed to the environment (40_register_access.md R91) -/
  | outside
  /-- no request the model takes -/
  | rejected (r : Reject)
  deriving DecidableEq, Repr

/-! Byte order: the first byte of a frame holds bits 7..0. -/

/-- The number a list of bytes stands for, the first byte the least significant. -/
def leNat : List Byte → Nat
  | [] => 0
  | b :: bs => b.toNat + 256 * leNat bs

/-- The low `k` bytes of a number, the least significant first. -/
def leBytes : Nat → Nat → List Byte
  | 0, _ => []
  | k + 1, n => BitVec.ofNat 8 n :: leBytes k (n / 256)

/-- The byte offset of EDECCR within the Debug component (20_memory.md R51). -/
def registerOffset : Nat := 0x098

/-- The number of bytes the register occupies (20_memory.md R51). -/
def registerBytes : Nat := 4

/-- The address of a displacement in the external debug address space (20_memory.md R51, R58). -/
def absoluteAddress (displacement : Dword) : Dword := Config.debugBase + displacement

/-- The number of bytes of an access. -/
def AccessWidth.bytes : AccessWidth → Nat
  | .one => 1
  | .two => 2
  | .four => 4
  | .eight => 8

/-- An access of `n` bytes at displacement `d` touches one of the register's four bytes
(20_memory.md R51, R54, R55). -/
def touchesRegister (d : Dword) (n : Nat) : Bool :=
  decide (d.toNat < registerOffset + registerBytes) && decide (registerOffset < d.toNat + n)

/-- The one admitted access: 32 bits wide, at the register's offset (20_memory.md R54, R55). -/
def isRegisterAccess (d : Dword) (width : AccessWidth) : Bool :=
  width == .four && d.toNat == registerOffset

/-! Decoding. -/

/-- The direction field of a frame. -/
def directionOf (b : Byte) : Option Direction :=
  if b = 0#8 then some .read else if b = 1#8 then some .write else none

/-- The width field of a frame. -/
def widthOf (b : Byte) : Option AccessWidth :=
  if b = 0#8 then some .four
  else if b = 1#8 then some .one
  else if b = 2#8 then some .two
  else if b = 3#8 then some .eight
  else none

/-- The register field of a frame. -/
def sysRegisterOf (b : Byte) : SysRegister := if b = 0#8 then .mapped else .other

/-- The request of a frame's port, direction, selector and register-number bytes, with the contents
of its two data lanes. -/
def requestOf (port dir sel t : Byte) (lane data : Nat) : Option Request :=
  match directionOf dir with
  | none => none
  | some d =>
    if port = 0#8 then
      (widthOf sel).map fun w => .ext d (BitVec.ofNat 64 lane) w (BitVec.ofNat 32 data)
    else if port = 1#8 then
      some (.sys64 d (sysRegisterOf sel) t.toNat (BitVec.ofNat 64 lane))
    else if port = 2#8 then
      some (.sys32 d (sysRegisterOf sel) t.toNat (BitVec.ofNat 32 lane))
    else none

/-- The request a frame holds: none if the bytes are no frame. -/
def parseFrame : List Byte → Option Request
  | [b0, b1, b2, b3, b4, b5, b6, b7, port, dir, sel, t, d0, d1, d2, d3] =>
    requestOf port dir sel t (leNat [b0, b1, b2, b3, b4, b5, b6, b7]) (leNat [d0, d1, d2, d3])
  | _ => none

/-- The operation of a register number the state does not have is no request. -/
def checked (i : Instr) : Decoded := if i.wf then .op i else .rejected .malformedFrame

/-- The operation a request selects (30_encoding.md R68; 40_register_access.md R91, R92). -/
def classify : Request → Decoded
  | .ext dir d w v =>
    if isRegisterAccess d w then
      match dir with
      | .read => .op .extRd
      | .write => .op (.extWr v)
    else if touchesRegister d w.bytes then .rejected .partialAccess
    else .outside
  | .sys64 _ .other _ _ => .outside
  | .sys64 .read .mapped t _ => checked (.sys64Rd t)
  | .sys64 .write .mapped t x => checked (.sys64Wr t x)
  | .sys32 _ .other _ _ => .outside
  | .sys32 .read .mapped t _ => checked (.sys32Rd t)
  | .sys32 .write .mapped t x => checked (.sys32Wr t x)

/-- The decoder, total on any bytes. -/
def decode (frame : List Byte) : Decoded :=
  match parseFrame frame with
  | some r => classify r
  | none => .rejected .malformedFrame

/-! Encoding. -/

/-- The direction field of a frame. -/
def directionByte : Direction → Byte
  | .read => 0#8
  | .write => 1#8

/-- The width field of a frame. -/
def widthByte : AccessWidth → Byte
  | .four => 0#8
  | .one => 1#8
  | .two => 2#8
  | .eight => 3#8

/-- The register field of a frame. -/
def sysRegisterByte : SysRegister → Byte
  | .mapped => 0#8
  | .other => 1#8

/-- The frame of a request. -/
def frameOf : Request → List Byte
  | .ext dir d w v =>
    leBytes 8 d.toNat ++ [0#8, directionByte dir, widthByte w, 0#8] ++ leBytes 4 v.toNat
  | .sys64 dir reg t x =>
    leBytes 8 x.toNat ++ [1#8, directionByte dir, sysRegisterByte reg, BitVec.ofNat 8 t] ++ leBytes 4 0
  | .sys32 dir reg t x =>
    leBytes 8 x.toNat ++ [2#8, directionByte dir, sysRegisterByte reg, BitVec.ofNat 8 t] ++ leBytes 4 0

/-- The request of an operation (30_encoding.md R68). -/
def requestFor : Instr → Request
  | .extRd => .ext .read (BitVec.ofNat 64 registerOffset) .four 0#32
  | .extWr v => .ext .write (BitVec.ofNat 64 registerOffset) .four v
  | .sys64Rd t => .sys64 .read .mapped t 0#64
  | .sys64Wr t x => .sys64 .write .mapped t x
  | .sys32Rd t => .sys32 .read .mapped t 0#32
  | .sys32Wr t x => .sys32 .write .mapped t x

/-- The frame of an operation. -/
def encode (i : Instr) : List Byte := frameOf (requestFor i)

/-! The table's words. -/

/-- The frame whose low `nbits` bits are `w`, numbered as spec/opcode_table.json numbers them, every
other bit 0. The table has no bit for the port or the direction, so such a frame is an external read
(log 18). -/
def tableFrame (nbits w : Nat) : List Byte := leBytes 16 (w % 2 ^ nbits)

/-- The operation the decoder reads from a table word. -/
def decodeTableWord (nbits w : Nat) : Option Instr :=
  match decode (tableFrame nbits w) with
  | .op i => some i
  | .outside => none
  | .rejected _ => none

end Sys2Proof
end

