-- ==== Sys2Proof/Machine/Defaults.lean ====
section
/-! DEFINITION. The default the spec proposes for each parameter (00_scope.md section 4). -/

namespace Sys2Proof

/-- The default layout: RTE3=27, RLR2=22, RLR1=21, RLR0=20, RLE2=18, RLE1=17 (10_state.md R11(c);
DEDUCED and PRESUMED, log 2). -/
def LayoutHi.proposed : LayoutHi := { afterRTR3 := 3, afterRTE3 := 4, afterRLR0 := 1, afterRLE1 := 1 }

/-- Every field at its `fine` definition (00_scope.md P2; DESIGN CHOICE, log 3). -/
def Variants.allFine : Variants :=
  { rtr3 := .fine, rte3 := .fine, rlr2 := .fine, rlr1 := .fine, rlr0 := .fine, rle2 := .fine,
    rle1 := .fine, nsr2 := .fine, nsr1 := .fine, nsr0 := .fine, sr3 := .fine, sr2 := .fine,
    sr1 := .fine, sr0 := .fine, nse2 := .fine, nse1 := .fine, se3 := .fine, se2 := .fine,
    se1 := .fine }

/-- The implementation's own choice at each target, which nothing fixes (41_exception_catch_control.md
R103; log 9). -/
def ResetEntryCatch.ofChoice (choice : Target → Bool) : ResetEntryCatch :=
  { rootEL3 := choice .rootEL3, nonSecureEL2 := choice .nonSecureEL2,
    nonSecureEL1 := choice .nonSecureEL1, el3 := choice .el3, secureEL2 := choice .secureEL2,
    secureEL1 := choice .secureEL1 }

/-- The configuration of State.reset: the proposed default of every parameter that has one, the
conservative treatment of P9 and P10, and an opaque constant for P7 (log 1 to 5, 9 to 12). -/
def Config.proposed : Config :=
  { layoutHi := LayoutHi.proposed
    variants := Variants.allFine
    res0Kind := .razWi
    resetValue := 0#32
    resetsOn := { cold := true, warm := false }
    resetEntryCatch := ResetEntryCatch.ofChoice Config.resetEntryChoice
    coarseKinds := { entry := true, resetEntry := true, exceptionReturn := true }
    el3PairRule := .unstated
    effectDelay := .unstated }

end Sys2Proof
end

