-- ==== Sys2Proof/Machine/State.lean ====
section
/-! DEFINITION. The state of the machine, the reasons a step can stop, and the state after reset.
The unit's own state is `core` (10_state.md R10, R43); every other field is the model's record of the
environment and of the order of events (INVENTORY.md, State). -/

namespace Sys2Proof.Machine

/-- The Core power domain (10_state.md R4, R43): off, and the register holds no value; or on, and
EDECCR holds a 32-bit value (10_state.md R10). -/
inductive CoreDomain where
  | off
  | on (edeccr : Word)
  deriving DecidableEq, Repr

/-- Who wrote the register (70_reset_and_hazards.md R187): the external debugger, or the processing
element through either System register view. -/
inductive Writer where
  | debugger | processor
  deriving DecidableEq, Repr

/-- A write that no later arrival is yet ordered after (70_reset_and_hazards.md R186): a record of the
order of events, not state of the unit (10_state.md R47; log 12). -/
structure UnsettledWrite where
  /-- the value the register held before the write -/
  before : Word
  /-- who wrote -/
  writer : Writer
  /-- the processing element has been running since the write -/
  peRan : Bool
  deriving DecidableEq, Repr

/-- One event of the environment (95_test_vectors.md section 3). -/
inductive Input where
  /-- a request for an access, with the answers `ext_access` and `sys_access` of the environment
  (40_register_access.md R90, section 3) -/
  | access (ext : ExtAccess) (sys : SysAccess) (frame : List Byte)
  /-- an arrival `(t, k)` at a named target (41_exception_catch_control.md R100, R101) -/
  | arrive (t : Target) (k : Kind)
  /-- an arrival at Exception level 3, named by level only (41_exception_catch_control.md R145) -/
  | arriveAtLevel3 (k : Kind)
  /-- a Cold or Warm reset (70_reset_and_hazards.md R180) -/
  | reset (k : ResetKind)
  /-- the Core power domain is powered down (10_state.md R43) -/
  | powerOff
  /-- the Core power domain is powered up (10_state.md R43) -/
  | powerOn
  /-- the processing element starts running (true) or is stopped (false) (70_reset_and_hazards.md R186) -/
  | processorRuns (running : Bool)
  /-- the processing element has synchronised its own writes, which the environment vouches for
  (70_reset_and_hazards.md R186) -/
  | synchronised
  deriving DecidableEq, Repr

/-- What the unit answers or emits (00_scope.md R5). -/
inductive Output where
  /-- `Ok(value)`: an external read (40_register_access.md R80) -/
  | extValue (v : Word)
  /-- `Ok()`: an external write (40_register_access.md R81, R87) -/
  | extDone
  /-- `ERROR` (40_register_access.md R86) -/
  | extError
  /-- `Xt <- x` (40_register_access.md R82) -/
  | sys64Value (t : Nat) (x : Dword)
  /-- `Rt <- x` (40_register_access.md R84) -/
  | sys32Value (t : Nat) (x : Word)
  /-- a request that is no operation of the unit, passed to the environment (40_register_access.md R91) -/
  | passed (frame : List Byte)
  /-- `ExceptionCatch(t, k)` (60_exceptions.md R151) -/
  | exceptionCatch (t : Target) (k : Kind)
  /-- the same for an arrival at Exception level 3 named by level only (41_exception_catch_control.md R145): the
  spec does not say which target the event names then (DESIGN CHOICE, log 11) -/
  | exceptionCatchAtLevel3 (k : Kind)
  deriving DecidableEq, Repr

/-- The state. -/
structure State where
  /-- the implementation parameters, fixed for the life of the machine (70_reset_and_hazards.md R181) -/
  cfg : Config
  /-- the register and its power domain: the unit's whole state (10_state.md R10, R43) -/
  core : CoreDomain
  /-- the oracle's answer for the external access in hand (40_register_access.md R90) -/
  extAccess : ExtAccess
  /-- the environment's permission for the System register access in hand (40_register_access.md section 3) -/
  sysAccess : SysAccess
  /-- the environment's events still to come, oldest first -/
  inputs : List Input
  /-- what the unit has answered and emitted, oldest first -/
  trace : List Output
  /-- the writes no later arrival is ordered after, newest first (log 12) -/
  unsettled : List UnsettledWrite
  /-- the processing element is running, as far as the environment has said (log 13) -/
  peRunning : Bool
  /-- how many free draws have been made (log 14) -/
  draws : Nat
  deriving DecidableEq, Repr

/-- The faults of the unit: none. It raises no exception, and `ERROR` is an answer to an external
access, not a fault (60_exceptions.md R152, 40_register_access.md R86). Safe: nothing stops this way. -/
inductive Fault where
  deriving DecidableEq, Repr

/-- Why the model has no meaning for an event. Every one is safe: the model stops where the hardware
may go on. -/
inductive Refusal where
  /-- raised by `exec` for an operation without a meaning: no arm is refused so (safe) -/
  | notModelled (mnemonic : String)
  /-- raised by `step`: the bytes of a request are no frame (safe; log 18) -/
  | malformedFrame
  /-- raised by `step`: an external access that overlaps the register without being the aligned 32-bit
  access, a mark on the whole run (40_register_access.md R92; safe) -/
  | partialAccess
  /-- raised by the four System register operations: the environment does not allow the access
  (40_register_access.md section 3; safe) -/
  | sysAccessNotAllowed
  /-- raised by the four System register operations: the Core power domain is off and the register
  holds no value (10_state.md R43; safe; log 16) -/
  | sysAccessCoreOff
  /-- raised by an arrival while the Core power domain is off: there is no value to decide it
  (10_state.md R43; safe; log 17) -/
  | arrivalCoreOff
  deriving DecidableEq, Repr

/-- The machine right after a Cold reset (10_state.md R42): the domain is on, the register holds its
reset value, and no event has been placed. -/
def State.reset : State :=
  { cfg := Config.proposed
    core := .on 0#32
    extAccess := .rw
    sysAccess := .allowed
    inputs := []
    trace := []
    unsettled := []
    peRunning := true
    draws := 0 }

end Sys2Proof.Machine
end

