-- ==== Sys2Proof/Machine/Ops.lean ====
section
/-! DEFINITION. The named operations over the register and the record of events, shared by the six
meanings and by the environment's events. The unit takes no exception and returns from none
(60_exceptions.md R152, R155): presenting an arrival, in Machine/Environment.lean, is all it knows of them. -/

namespace Sys2Proof.Machine

open Host

/-- The unit answers or emits `o` (00_scope.md R5). -/
def State.respond (s : State) (o : Output) : State := { s with trace := s.trace ++ [o] }

/-- The write recorded as one since which the processing element has run. -/
def UnsettledWrite.markRan (w : UnsettledWrite) : UnsettledWrite := { w with peRan := true }

/-- The processing element is running, so every unsettled write has seen it run
(70_reset_and_hazards.md R186; log 13). -/
def State.processorIsRunning (s : State) : State :=
  { s with peRunning := true, unsettled := s.unsettled.map UnsettledWrite.markRan }

/-- The processing element is stopped. -/
def State.processorIsStopped (s : State) : State := { s with peRunning := false }

/-- `EDECCR <- v AND WMASK`, all writable bits at once (40_register_access.md R88; 20_memory.md R56),
and the record that arrivals are not yet ordered after the write. Every performed write goes on record,
one of the value already held too: it leaves the register as it is (40_register_access.md R81), and it
can be read back or synchronised like any other (70_reset_and_hazards.md R186; DEDUCED, log 26). With the
domain off there is no register to write. -/
def State.writeRegister (s : State) (writer : Writer) (v : Word) : State :=
  match s.core with
  | .off => s
  | .on old =>
    { s with
      core := .on (v &&& s.cfg.wmask)
      unsettled := { before := old, writer := writer, peRan := s.peRunning } :: s.unsettled }

/-- The writes still unsettled after the debugger has read the register: none, if the newest write was
the debugger's and the processing element has not run since, because the read shows its value in place
(70_reset_and_hazards.md R186, first ordering; log 13). -/
def settledByRead : List UnsettledWrite → List UnsettledWrite
  | [] => []
  | w :: ws => if w.writer = .debugger ∧ w.peRan = false then [] else w :: ws

/-- The debugger has read the register. The register itself does not change (20_memory.md R57). -/
def State.debuggerHasRead (s : State) : State := { s with unsettled := settledByRead s.unsettled }

/-- The writes still unsettled after the processing element has synchronised: those newer than its own
newest write (70_reset_and_hazards.md R186, second ordering; log 13). -/
def settledBySync (ws : List UnsettledWrite) : List UnsettledWrite :=
  ws.takeWhile fun w => w.writer != .processor

/-- The register values an arrival may see, the present one first (20_memory.md R60;
70_reset_and_hazards.md R186). -/
def State.visibleValues (s : State) (v : Word) : List Word :=
  match s.cfg.effectDelay with
  | .atOnce => [v]
  | .unstated => v :: s.unsettled.map (·.before)

/-- The outcome of an arrival from the outcomes the spec admits: theirs where they agree, the n-th free
draw where they differ (41_exception_catch_control.md R145; 70_reset_and_hazards.md R186). -/
def resolve (n : Nat) (outcomes : List Bool) : Bool :=
  if outcomes.all id then true else if outcomes.any id then Config.freeDraw n else false

/-- What every System register operation does first (40_register_access.md section 3): refuse an
access the environment does not allow; with the domain off there is no value to move (10_state.md R43);
otherwise go on with the register's value, the processing element being at work. -/
def State.sysRegisterAccess (s : State) (go : Word → State → Outcome State Fault Refusal) :
    Outcome State Fault Refusal :=
  match s.sysAccess with
  | .notAllowed => .refused .sysAccessNotAllowed
  | .allowed =>
    match s.core with
    | .off => .refused .sysAccessCoreOff
    | .on v => go v s.processorIsRunning

/-- The oracle's answer in force: `ERROR` always while the Core power domain is off
(40_register_access.md R86, R90; 10_state.md R43). -/
def State.extAnswer (s : State) : ExtAccess :=
  match s.core with
  | .off => .error
  | .on _ => s.extAccess

/-- The state in which an event is acted on: the event is taken from the list. -/
def State.takeInput (s : State) (rest : List Input) : State := { s with inputs := rest }

/-- The state in which an access is acted on: the event is taken and the environment's two answers
stand beside it (40_register_access.md R90, section 3). -/
def State.takeAccess (s : State) (rest : List Input) (ext : ExtAccess) (sys : SysAccess) : State :=
  { s with inputs := rest, extAccess := ext, sysAccess := sys }

/-- The refusal of a request the decoder rejects. -/
def refusalOf : Reject → Refusal
  | .malformedFrame => .malformedFrame
  | .partialAccess => .partialAccess

end Sys2Proof.Machine
end

