-- ==== Sys2Proof/Machine/ExtAccess.lean ====
section
/-! DEFINITION. The two operations of the external debug interface (40_register_access.md section 2). -/

namespace Sys2Proof.Machine

open Host

/-- `EXT.RD EDECCR` (40_register_access.md R80): `ERROR`, or the stored value, all 32 bits (R89); a read
under `RO` is performed (R87). -/
def execExtRd (s : State) : Outcome State Fault Refusal :=
  match s.core with
  | .off => .next (s.respond .extError)
  | .on v =>
    match s.extAccess with
    | .error => .next (s.respond .extError)
    | .ro => .next (s.debuggerHasRead.respond (.extValue v))
    | .rw => .next (s.debuggerHasRead.respond (.extValue v))

/-- `EXT.WR EDECCR` (40_register_access.md R81): `ERROR` (R86), ignored under `RO` (R87), or the word
replaced under the write mask (R88). -/
def execExtWr (v : Word) (s : State) : Outcome State Fault Refusal :=
  match s.extAnswer with
  | .error => .next (s.respond .extError)
  | .ro => .next (s.respond .extDone)
  | .rw => .next ((s.writeRegister .debugger v).respond .extDone)

end Sys2Proof.Machine
end

