-- ==== Sys2Proof/Machine/SysReg32.lean ====
section
/-! DEFINITION. The AArch32 System register view DBGOSECCR (40_register_access.md R84, R85). -/

namespace Sys2Proof.Machine

open Host

/-- `SYS32.RD DBGOSECCR` (40_register_access.md R84): `Rt <- EDECCR`. -/
def execSys32Rd (t : Nat) (s : State) : Outcome State Fault Refusal :=
  s.sysRegisterAccess fun v s => .next (s.respond (.sys32Value t v))

/-- `SYS32.WR DBGOSECCR` (40_register_access.md R85): `EDECCR <- Rt AND WMASK`. -/
def execSys32Wr (_t : Nat) (x : Word) (s : State) : Outcome State Fault Refusal :=
  s.sysRegisterAccess fun _ s => .next (s.writeRegister .processor x)

end Sys2Proof.Machine
end

