-- ==== Sys2Proof/Machine/SysReg64.lean ====
section
/-! DEFINITION. The AArch64 System register view OSECCR_EL1 (40_register_access.md R82, R83). -/

namespace Sys2Proof.Machine

open Host

/-- `SYS64.RD OSECCR_EL1` (40_register_access.md R82): `Xt <- zext_64(EDECCR)`. -/
def execSys64Rd (t : Nat) (s : State) : Outcome State Fault Refusal :=
  s.sysRegisterAccess fun v s => .next (s.respond (.sys64Value t (zext64 v)))

/-- `SYS64.WR OSECCR_EL1` (40_register_access.md R83): `EDECCR <- Xt[31:0] AND WMASK`; `Xt[63:32]` and
the number `t` are not looked at. -/
def execSys64Wr (_t : Nat) (x : Dword) (s : State) : Outcome State Fault Refusal :=
  s.sysRegisterAccess fun _ s => .next (s.writeRegister .processor (lowWord x))

end Sys2Proof.Machine
end

