-- ==== Sys2Proof/Machine/Dispatch.lean ====
section
/-! DEFINITION. One arm per access operation. -/

namespace Sys2Proof.Machine

open Host

def exec (i : Instr) (s : State) : Host.Outcome State Fault Refusal :=
  match i with
  | .extRd => Sys2Proof.Machine.execExtRd s
  | .extWr v => Sys2Proof.Machine.execExtWr v s
  | .sys64Rd t => Sys2Proof.Machine.execSys64Rd t s
  | .sys64Wr t x => Sys2Proof.Machine.execSys64Wr t x s
  | .sys32Rd t => Sys2Proof.Machine.execSys32Rd t s
  | .sys32Wr t x => Sys2Proof.Machine.execSys32Wr t x s

end Sys2Proof.Machine
end

