-- ==== Sys2Proof/Machine/Access.lean ====
section
/-! DEFINITION. From the bytes of a request to its effect. -/

namespace Sys2Proof.Machine

open Host

/-- A request is decoded: an operation of the unit runs; a request to something else is passed to the
environment, and changes nothing in the unit (40_register_access.md R91); the rest is refused
(40_register_access.md R92). DESIGN CHOICE (log 13): a passed access, one to another System register too,
does not tell the unit that the processing element runs; only the environment's notice does. -/
def performAccess (frame : List Byte) (s : State) : Outcome State Fault Refusal :=
  match decode frame with
  | .op i => exec i s
  | .outside => .next (s.respond (.passed frame))
  | .rejected r => .refused (refusalOf r)

end Sys2Proof.Machine
end

