-- ==== Sys2Proof/Machine/Environment.lean ====
section
/-! DEFINITION. The events that are no access: arrivals, resets, power, and the environment's notices
(41_exception_catch_control.md R146; 10_state.md R42, R43; 70_reset_and_hazards.md R180, R186). -/

namespace Sys2Proof.Machine

open Host

/-- Presenting an arrival (60_exceptions.md R151): the outcome is decided from every value the arrival
may see; `o` is emitted if it is enabled and nothing otherwise. The register does not change. -/
def State.presentArrival (s : State) (outcomes : Word → List Bool) (o : Output) :
    Outcome State Fault Refusal :=
  match s.core with
  | .off => .refused .arrivalCoreOff
  | .on v =>
    let after := { s.processorIsRunning with draws := s.draws + 1 }
    if resolve s.draws ((s.visibleValues v).flatMap outcomes) then .next (after.respond o)
    else .next after

/-- An arrival `(t, k)` (41_exception_catch_control.md R146). -/
def arrive (t : Target) (k : Kind) (s : State) : Outcome State Fault Refusal :=
  s.presentArrival (fun v => [s.cfg.catchEnabled v t k]) (.exceptionCatch t k)

/-- An arrival at Exception level 3, named by level only (41_exception_catch_control.md R145). DESIGN CHOICE
(log 11): the output names the level only, too, also where `EL3_PAIR_RULE` names the pair. -/
def arriveAtLevel3 (k : Kind) (s : State) : Outcome State Fault Refusal :=
  s.presentArrival (fun v => s.cfg.el3Outcomes v k) (.exceptionCatchAtLevel3 k)

/-- The register takes its reset value; nothing before it is visible any more (10_state.md R42). -/
def State.resetRegister (s : State) : State :=
  { s with core := .on s.cfg.valueAtReset, unsettled := [] }

/-- A reset (70_reset_and_hazards.md R180): the register takes its reset value if the kind is in
`RESETS_ON`, and is unchanged if not; with the domain off there is no value to change. The processing
element comes out of it running (log 28). -/
def resetEvent (k : ResetKind) (s : State) : Outcome State Fault Refusal :=
  match s.core with
  | .off => .next s
  | .on _ =>
    if s.cfg.resetsOnKind k then .next s.resetRegister.processorIsRunning
    else .next s.processorIsRunning

/-- The Core power domain is powered down: the value is lost (10_state.md R43). -/
def powerOff (s : State) : Outcome State Fault Refusal :=
  .next { s with core := .off, unsettled := [] }

/-- The Core power domain is powered up: the register takes its Cold reset value (10_state.md R43). A
domain that is on already is not powered up again (log 15). -/
def powerOn (s : State) : Outcome State Fault Refusal :=
  match s.core with
  | .off => .next s.resetRegister.processorIsRunning
  | .on _ => .next s

/-- The environment's notice that the processing element runs or is stopped (70_reset_and_hazards.md R186). -/
def processorRuns (running : Bool) (s : State) : Outcome State Fault Refusal :=
  if running then .next s.processorIsRunning else .next s.processorIsStopped

/-- The environment vouches that the processing element has synchronised (70_reset_and_hazards.md R186).
DESIGN CHOICE (log 13): this does not tell the unit that the processing element runs. -/
def synchronised (s : State) : Outcome State Fault Refusal :=
  .next { s with unsettled := settledBySync s.unsettled }

end Sys2Proof.Machine
end

