-- ==== Sys2Proof/Machine/Step.lean ====
section
/-! DEFINITION. One step: the next event of the environment is taken and acted on
(95_test_vectors.md section 3: one line of a script is one step). -/

namespace Sys2Proof.Machine

open Host

/-- One step. With no event to take the unit stays as it is (log 20). -/
def step (s : State) : Outcome State Fault Refusal :=
  match s.inputs with
  | [] => .next s
  | .access ext sys frame :: rest => performAccess frame (s.takeAccess rest ext sys)
  | .arrive t k :: rest => arrive t k (s.takeInput rest)
  | .arriveAtLevel3 k :: rest => arriveAtLevel3 k (s.takeInput rest)
  | .reset k :: rest => resetEvent k (s.takeInput rest)
  | .powerOff :: rest => powerOff (s.takeInput rest)
  | .powerOn :: rest => powerOn (s.takeInput rest)
  | .processorRuns b :: rest => processorRuns b (s.takeInput rest)
  | .synchronised :: rest => synchronised (s.takeInput rest)

/-- The request of a table word at the head of the events, allowed by the environment (log 19). -/
def State.withFetchWord (s : State) (nbits w : Nat) : State :=
  { s with inputs := .access .rw .allowed (tableFrame nbits w) :: s.inputs }

end Sys2Proof.Machine
end

