-- ==== Sys2Proof/Safety.lean ====
section
/-! DEFINITION. What a legal state is, which events may change the register, and when an arrival is
ordered after every write: the terms the statements use. -/

namespace Sys2Proof.Machine

open Host

/-- A value within the write mask: `v AND NOT WMASK = 0` (40_register_access.md R88). -/
def withinMask (c : Config) (v : Word) : Bool := v &&& ~~~c.wmask == 0#32

/-- The register's part of the invariant: what it holds is within the write mask
(40_register_access.md R88), and with the domain off it holds nothing and no write is unsettled. -/
def State.coreLegal (s : State) : Bool :=
  match s.core with
  | .on v => withinMask s.cfg v
  | .off => s.unsettled.isEmpty

/-- A write on record: its old value is within the mask, and while the processing element runs the
record says so. -/
def State.unsettledLegal (s : State) : Bool :=
  s.unsettled.all fun w => withinMask s.cfg w.before && (!s.peRunning || w.peRan)

/-- The invariant of the machine: a configuration the source admits, the invariant of
40_register_access.md R88, and the same of every value an arrival may still see. -/
def State.legal (s : State) : Bool := s.cfg.wf && s.coreLegal && s.unsettledLegal

/-- The value of the register, if the domain is on (10_state.md R43). -/
def State.edeccr? (s : State) : Option Word :=
  match s.core with
  | .off => none
  | .on v => some v

/-- No write is visible as pending to an arrival: every earlier write is ordered before it
(70_reset_and_hazards.md R186), or writes take effect at once. -/
def State.settled (s : State) : Prop := s.cfg.effectDelay = .atOnce ∨ s.unsettled = []

/-- A value `u` that an arrival may see while the register holds `v`: `v` itself, or, where writes do not
take effect at once, the value before a write that is not settled (20_memory.md R60;
70_reset_and_hazards.md R186). -/
def State.mayBeSeen (s : State) (v u : Word) : Prop :=
  u = v ∨ s.cfg.effectDelay = .unstated ∧ ∃ w ∈ s.unsettled, w.before = u

/-- A target whose pair an arrival at Exception level 3, named by level only, consults
(41_exception_catch_control.md R145). -/
def pairConsulted (c : Config) (t : Target) : Prop :=
  (t = .el3 ∧ c.el3PairRule ≠ .rootPair) ∨ (t = .rootEL3 ∧ c.el3PairRule ≠ .el3Pair)

/-- The six targets that have a reset entry, each with its entry control and with whether the
implementation catches a reset entry there (41_exception_catch_control.md R102, R103). -/
def resetEntryTargets (c : Config) : List (Target × FieldName × Bool) :=
  [(.rootEL3, .rte3, c.resetEntryCatch.rootEL3),
   (.nonSecureEL2, .nse2, c.resetEntryCatch.nonSecureEL2),
   (.nonSecureEL1, .nse1, c.resetEntryCatch.nonSecureEL1),
   (.el3, .se3, c.resetEntryCatch.el3),
   (.secureEL2, .se2, c.resetEntryCatch.secureEL2),
   (.secureEL1, .se1, c.resetEntryCatch.secureEL1)]

/-- A word with every reserved bit cleared (30_encoding.md R70). -/
def meaningBits (c : Config) (v : Word) : Word := v &&& c.activeMask

/-- An output with the reserved bits of the word it carries cleared. -/
def Output.clearReserved (c : Config) : Output → Output
  | .extValue v => .extValue (meaningBits c v)
  | .extDone => .extDone
  | .extError => .extError
  | .sys64Value t x => .sys64Value t (zext64 (meaningBits c (lowWord x)))
  | .sys32Value t v => .sys32Value t (meaningBits c v)
  | .passed f => .passed f
  | .exceptionCatch t k => .exceptionCatch t k
  | .exceptionCatchAtLevel3 k => .exceptionCatchAtLevel3 k

/-- The register with its reserved bits cleared, if the domain is on. -/
def CoreDomain.clearReserved (c : Config) : CoreDomain → CoreDomain
  | .off => .off
  | .on v => .on (meaningBits c v)

/-- A write on record with the reserved bits of the value before it cleared. -/
def UnsettledWrite.clearReserved (c : Config) (w : UnsettledWrite) : UnsettledWrite :=
  { w with before := meaningBits c w.before }

/-- A state with every reserved bit of every word in it cleared: in the register, on record, and in what
has been read. -/
def State.clearReserved (s : State) : State :=
  { s with
    core := s.core.clearReserved s.cfg
    trace := s.trace.map (Output.clearReserved s.cfg)
    unsettled := s.unsettled.map (UnsettledWrite.clearReserved s.cfg) }

/-- Two outcomes that are alike but for reserved bits: both a next state, alike once those bits are
cleared, or both the same stop. -/
def sameButReserved : Outcome State Fault Refusal → Outcome State Fault Refusal → Prop
  | .next s, .next s' => s.clearReserved = s'.clearReserved
  | .refused r, .refused r' => r = r'
  | _, _ => False

/-- An operation that writes the register (40_register_access.md R81, R83, R85). -/
def writesRegister : Instr → Bool
  | .extRd => false
  | .extWr _ => true
  | .sys64Rd _ => false
  | .sys64Wr _ _ => true
  | .sys32Rd _ => false
  | .sys32Wr _ _ => true

/-- The value an operation writes, before the mask (40_register_access.md R81, R83, R85). -/
def writtenValue : Instr → Word
  | .extRd => 0#32
  | .extWr v => v
  | .sys64Rd _ => 0#32
  | .sys64Wr _ x => lowWord x
  | .sys32Rd _ => 0#32
  | .sys32Wr _ x => x

/-- Two states in which the unit itself is the same: register, power and configuration. -/
def sameUnit (s s' : State) : Prop := s'.core = s.core ∧ s'.cfg = s.cfg

/-- The word a view reports, in the 32 bits the page maps (10_state.md R44). -/
def viewedWord : Output → Option Word
  | .extValue v => some v
  | .extDone => none
  | .extError => none
  | .sys64Value _ x => some (lowWord x)
  | .sys32Value _ v => some v
  | .passed _ => none
  | .exceptionCatch _ _ => none
  | .exceptionCatchAtLevel3 _ => none

/-- What the unit adds to its outputs for an arrival: `o` if the event is enabled, and nothing otherwise
(60_exceptions.md R151). -/
def emission (enabled : Bool) (o : Output) : List Output := if enabled then [o] else []

/-- The four rows of the value tables of a pair of controls, `entry` and `ret`, for the target `t`:
nothing; everything; returns only; everything but returns. `reset` is whether a reset entry is caught
with the entry. -/
def fourRows (c : Config) (v : Word) (t : Target) (entry ret : FieldName) (reset : Bool) : Prop :=
  (v.getLsbD (c.layoutHi.pos entry) = false → v.getLsbD (c.layoutHi.pos ret) = false →
    ∀ k, c.catchEnabled v t k = false) ∧
  (v.getLsbD (c.layoutHi.pos entry) = true → v.getLsbD (c.layoutHi.pos ret) = false →
    c.catchEnabled v t .entry = true ∧ c.catchEnabled v t .resetEntry = reset ∧
      c.catchEnabled v t .exceptionReturn = true) ∧
  (v.getLsbD (c.layoutHi.pos entry) = false → v.getLsbD (c.layoutHi.pos ret) = true →
    c.catchEnabled v t .entry = false ∧ c.catchEnabled v t .resetEntry = false ∧
      c.catchEnabled v t .exceptionReturn = true) ∧
  (v.getLsbD (c.layoutHi.pos entry) = true → v.getLsbD (c.layoutHi.pos ret) = true →
    c.catchEnabled v t .entry = true ∧ c.catchEnabled v t .resetEntry = reset ∧
      c.catchEnabled v t .exceptionReturn = false)

/-- The four rows hold wherever both controls take their `fine` definition. -/
def finePair (c : Config) (v : Word) (t : Target) (entry ret : FieldName) (reset : Bool) : Prop :=
  c.variant entry = .fine → c.variant ret = .fine → fourRows c v t entry ret reset

/-- The two rows of the table of an EL0 return control, and what no value enables. -/
def returnOnlyRows (c : Config) (v : Word) (t : Target) (ret : FieldName) : Prop :=
  c.catchEnabled v t .entry = false ∧ c.catchEnabled v t .resetEntry = false ∧
  (c.variant ret = .fine → c.catchEnabled v t .exceptionReturn = v.getLsbD (c.layoutHi.pos ret))

/-- Under the proposed layout with every field fine, the value `v` enables nothing for any target but `t`. -/
def enablesOnlyAt (c : Config) (v : Word) (t : Target) : Prop :=
  c.layoutHi = LayoutHi.proposed → c.variants = Variants.allFine →
    ∀ t' k, t' ≠ t → c.catchEnabled v t' k = false

/-- The two rows of a coarse table: nothing; every kind of `COARSE_KINDS`, a reset entry only if the
implementation catches it at `t`. -/
def coarseRows (c : Config) (v : Word) (t : Target) (entry : FieldName) : Prop :=
  c.variant entry = .coarse →
    (v.getLsbD (c.layoutHi.pos entry) = false → ∀ k, c.catchEnabled v t k = false) ∧
    (v.getLsbD (c.layoutHi.pos entry) = true →
      c.catchEnabled v t .entry = c.coarseKinds.entry ∧
      c.catchEnabled v t .exceptionReturn = c.coarseKinds.exceptionReturn ∧
      c.catchEnabled v t .resetEntry = (c.coarseKinds.resetEntry && c.catchesReset t))

/-- An external access at displacement `d` that touches the register's four bytes without being the
aligned 32-bit access (20_memory.md R54, R55). -/
def overlapsBadly (d : Dword) (w : AccessWidth) : Prop :=
  d.toNat < 0x09C ∧ 0x098 < d.toNat + w.bytes ∧ ¬ (w = .four ∧ d.toNat = 0x098)

/-- An external access that touches none of the register's four bytes. -/
def missesRegister (d : Dword) (w : AccessWidth) : Prop :=
  0x09C ≤ d.toNat ∨ d.toNat + w.bytes ≤ 0x098

/-- An event that may change the register: the request of an operation that writes it, a reset, or a
change of the Core power domain. -/
def mayChangeRegister : Input → Bool
  | .access _ _ frame =>
    match decode frame with
    | .op i => writesRegister i
    | .outside => false
    | .rejected _ => false
  | .arrive _ _ => false
  | .arriveAtLevel3 _ => false
  | .reset _ => true
  | .powerOff => true
  | .powerOn => true
  | .processorRuns _ => false
  | .synchronised => false

end Sys2Proof.Machine
end

