-- ==== Sys2Proof/Certificates/Slice0/Obligations.lean ====
section
/-! DEFINITION. The statements for the provers. "log n" is notes/assumptions/n.md. -/

open Sys2Proof Sys2Proof.Machine Host

/-! ## Encoding -/

/-- Decoding the frame of an operation gives the operation back, for every operation whose register
number its state has. The frame is the model's own (log 18). -/
def Obligations.DecodeReadsBackEncoding : Prop :=
  ∀ i : Instr, i.wf = true → decode (encode i) = .op i

/-- Frames written out by hand: bits 11..0 of the external rows are 0x098 (opcode_table.json), the data
word of the System register rows stands in bits 31..0; port, direction and `t` as log 18 lays them out. -/
def Obligations.WrittenOutFramesDecode : Prop :=
  decodeTableWord 16 0x098 = some .extRd ∧
  decodeTableWord 16 0x09C = none ∧
  decode [0x98#8, 0, 0, 0, 0, 0, 0, 0, 0, 1, 0, 0, 0x20, 0x20, 0, 0] = .op (.extWr 0x2020#32) ∧
  decode [0, 0, 0, 0, 0, 0, 0, 0, 1, 0, 0, 3, 0, 0, 0, 0] = .op (.sys64Rd 3) ∧
  decode [8, 8, 0, 0, 0, 0, 0, 0x80#8, 1, 1, 0, 0, 0, 0, 0, 0] = .op (.sys64Wr 0 0x8000000000000808#64) ∧
  decode [0, 0, 0, 0, 0, 0, 0, 0, 2, 0, 0, 1, 0, 0, 0, 0] = .op (.sys32Rd 1) ∧
  decode [2, 0, 0, 0x88#8, 0, 0, 0, 0, 2, 1, 0, 15, 0, 0, 0, 0] = .op (.sys32Wr 15 0x88000002#32)

/-- An external request is the operation exactly for the 32-bit access at the register's offset; any
other access that touches the register is rejected, and one that misses it is not the unit's
(20_memory.md R54, R55; 40_register_access.md R91, R92: the spec's decision D6). -/
def Obligations.ExternalRequestsSortByAddressAndWidth : Prop :=
  ∀ (dir : Direction) (d : Dword) (w : AccessWidth) (v : Word),
    (w = .four ∧ d.toNat = 0x098 →
      decode (frameOf (.ext dir d w v)) =
        .op (match dir with | .read => .extRd | .write => .extWr v)) ∧
    (overlapsBadly d w → decode (frameOf (.ext dir d w v)) = .rejected .partialAccess) ∧
    (missesRegister d w → decode (frameOf (.ext dir d w v)) = .outside)

/-- The full address is compared: a 32-bit external access is an operation of the unit exactly when its
address is DEBUG_BASE + 0x098, whatever DEBUG_BASE is (20_memory.md R51, log 8). -/
def Obligations.RegisterAddressIsBasePlusOffset : Prop :=
  ∀ (dir : Direction) (d : Dword) (v : Word),
    (∃ i, decode (frameOf (.ext dir d .four v)) = .op i) ↔
      absoluteAddress d = Config.debugBase + 0x098#64

/-! ## The word -/

/-- Under every layout the source admits, the 23 named fields stand at 23 different bits of the word,
and under the proposed layout at those of 10_state.md R11 (log 2). -/
def Obligations.FieldsStandAtDifferentBits : Prop :=
  (∀ l : LayoutHi, l.wf = true →
    (∀ f, l.pos f < 32) ∧ ∀ f g, l.pos f = l.pos g → f = g) ∧
  FieldName.all.map LayoutHi.proposed.pos =
    [31, 27, 22, 21, 20, 18, 17, 15, 14, 13, 12, 11, 10, 9, 8, 7, 6, 5, 4, 3, 2, 1, 0]

/-- Each field of an assembled word reads as the value it was assembled from, and every bit that is no
field is 0. -/
def Obligations.AssembledFieldsReadBack : Prop :=
  ∀ (c : Config) (value : FieldName → Bool), c.layoutHi.wf = true →
    (∀ f, (c.assemble value).getLsbD (c.layoutHi.pos f) = value f) ∧
    ∀ n, (∀ f, c.layoutHi.pos f ≠ n) → (c.assemble value).getLsbD n = false

/-- Bit n of WMASK is set exactly if a field with a meaning stands there or RES0 bits are storage
(40_register_access.md R88, which the spec derives). -/
def Obligations.WriteMaskBits : Prop :=
  ∀ (c : Config) (n : Nat), c.layoutHi.wf = true → n < 32 →
    (c.wmask.getLsbD n = true ↔
      c.res0Kind = .storage ∨ ∃ f, c.variant f ≠ .res0 ∧ c.layoutHi.pos f = n)

/-- The masks of the proposed layout with every field fine: 0x88767F6E under RAZ_WI, all ones under
STORAGE (40_register_access.md R88; log 2, 3, 4). -/
def Obligations.DefaultWriteMasks : Prop :=
  ∀ c : Config, c.layoutHi = LayoutHi.proposed → c.variants = Variants.allFine →
    c.wmask = match c.res0Kind with
      | .razWi => 0x88767F6E#32
      | .storage => 0xFFFFFFFF#32

/-- The byte lanes of a word, the first the least significant, make up the word (20_memory.md R53, a
convention from general knowledge, log 30). -/
def Obligations.ByteLanesMakeUpTheWord : Prop :=
  ∀ v : Word, leNat [byteLane v 0, byteLane v 1, byteLane v 2, byteLane v 3] = v.toNat

/-! ## The six operations -/

/-- `EXT.RD EDECCR`: with the domain on, an answer of RW or RO returns the stored word; an answer of
ERROR, or the domain off, returns ERROR; register and power do not change. A read that overlaps the
register at another width or alignment is refused. The three answers and that refusal are the spec's
decisions D5, D6, D14 and D15 (log 6, 15, 24, 31); `settledByRead` is the model's record of order (log 13). -/
def Obligations.ExternalReadReturnsTheWord : Prop :=
  ∀ s : State,
    (∀ v, s.core = .on v → s.extAccess ≠ .error →
      exec .extRd s = .next { s with
        trace := s.trace ++ [.extValue v], unsettled := settledByRead s.unsettled }) ∧
    (s.core = .off ∨ s.extAccess = .error →
      exec .extRd s = .next { s with trace := s.trace ++ [.extError] }) ∧
    (∀ e y d w v rest, s.inputs = .access e y (frameOf (.ext .read d w v)) :: rest →
      overlapsBadly d w → step s = .refused .partialAccess)

/-- `EXT.WR EDECCR`: under RW the register becomes `v AND WMASK` and the answer is Ok(); under RO nothing
changes and the answer is Ok(); an answer of ERROR, or the domain off, changes nothing and answers
ERROR; no event is generated. The three answers are the spec's decisions D5, D14 and D15, WMASK its
derivation (log 4, 6, 15, 31); `unsettled` is the model's record that no arrival is ordered after the
write, of the value already held too, with who wrote and whether the processing element runs (the model's
choice, log 12, 13, 26). -/
def Obligations.ExternalWriteReplacesTheWord : Prop :=
  ∀ (s : State) (v : Word),
    (∀ old, s.core = .on old → s.extAccess = .rw →
      exec (.extWr v) s = .next { s with
        core := .on (v &&& s.cfg.wmask)
        trace := s.trace ++ [.extDone]
        unsettled := { before := old, writer := .debugger, peRan := s.peRunning } :: s.unsettled }) ∧
    (∀ old, s.core = .on old → s.extAccess = .ro →
      exec (.extWr v) s = .next { s with trace := s.trace ++ [.extDone] }) ∧
    (s.core = .off ∨ s.extAccess = .error →
      exec (.extWr v) s = .next { s with trace := s.trace ++ [.extError] })

/-- `SYS64.RD OSECCR_EL1`: refused if not allowed (decision D19; log 34); else it puts a value into `Xt`
whose low 32 bits are the register, and register and power do not change. What `Xt[63:32]` is, the spec
chooses (decision D19) and says no claim should depend on it, so this statement does not (log 23). That the
processing element runs, and has run since every write on record, is the model's choice (log 13). -/
def Obligations.Sys64ReadGivesTheWord : Prop :=
  ∀ (s : State) (t : Nat),
    (s.sysAccess = .notAllowed → exec (.sys64Rd t) s = .refused .sysAccessNotAllowed) ∧
    (∀ v, s.sysAccess = .allowed → s.core = .on v →
      ∃ x : Dword, x.extractLsb' 0 32 = v ∧
        exec (.sys64Rd t) s = .next { s with
          trace := s.trace ++ [.sys64Value t x]
          peRunning := true
          unsettled := s.unsettled.map UnsettledWrite.markRan })

/-- `SYS64.WR OSECCR_EL1`: refused if not allowed; else the register becomes `Xt[31:0] AND WMASK`. The
refusal and the use of `Xt[31:0]` are the spec's decision D19 (log 23, 34). That the processing element
runs, and what goes on record, is the model's choice (log 12, 13, 26). -/
def Obligations.Sys64WriteTakesTheLowWord : Prop :=
  ∀ (s : State) (t : Nat) (x : Dword),
    (s.sysAccess = .notAllowed → exec (.sys64Wr t x) s = .refused .sysAccessNotAllowed) ∧
    (∀ old, s.sysAccess = .allowed → s.core = .on old →
      exec (.sys64Wr t x) s = .next { s with
        core := .on (x.extractLsb' 0 32 &&& s.cfg.wmask)
        peRunning := true
        unsettled := { before := old, writer := .processor, peRan := true } ::
          s.unsettled.map UnsettledWrite.markRan })

/-- `SYS32.RD DBGOSECCR`: refused if not allowed (decision D19; log 34); else `Rt` gets the register's 32
bits, and register and power do not change. That the processing element runs, and has run since every write
on record, is the model's choice (log 13). -/
def Obligations.Sys32ReadGivesTheWord : Prop :=
  ∀ (s : State) (t : Nat),
    (s.sysAccess = .notAllowed → exec (.sys32Rd t) s = .refused .sysAccessNotAllowed) ∧
    (∀ v, s.sysAccess = .allowed → s.core = .on v →
      exec (.sys32Rd t) s = .next { s with
        trace := s.trace ++ [.sys32Value t v]
        peRunning := true
        unsettled := s.unsettled.map UnsettledWrite.markRan })

/-- `SYS32.WR DBGOSECCR`: refused if not allowed (decision D19; log 34); else the register becomes
`Rt AND WMASK`. That the processing element runs, and what goes on record, is the model's choice (log 12,
13, 26). -/
def Obligations.Sys32WriteReplacesTheWord : Prop :=
  ∀ (s : State) (t : Nat) (x : Word),
    (s.sysAccess = .notAllowed → exec (.sys32Wr t x) s = .refused .sysAccessNotAllowed) ∧
    (∀ old, s.sysAccess = .allowed → s.core = .on old →
      exec (.sys32Wr t x) s = .next { s with
        core := .on (x &&& s.cfg.wmask)
        peRunning := true
        unsettled := { before := old, writer := .processor, peRan := true } ::
          s.unsettled.map UnsettledWrite.markRan })

/-- The model's choice (log 16): an allowed System register access with the Core power domain off is
refused, because the register holds no value. -/
def Obligations.SysAccessWithDomainOffIsRefused : Prop :=
  ∀ (s : State) (t : Nat) (x : Dword) (v : Word), s.sysAccess = .allowed → s.core = .off →
    exec (.sys64Rd t) s = .refused .sysAccessCoreOff ∧
    exec (.sys64Wr t x) s = .refused .sysAccessCoreOff ∧
    exec (.sys32Rd t) s = .refused .sysAccessCoreOff ∧
    exec (.sys32Wr t v) s = .refused .sysAccessCoreOff

/-- The frame of all six operations: configuration, environment answers, pending events and the draw
counter stay; outputs are only added; an operation that reads leaves the register; one that writes
leaves it or puts the written value under the mask into a register that was there (20_memory.md R57). -/
def Obligations.OperationsChangeOnlyTheRegister : Prop :=
  ∀ (i : Instr) (s s' : State), exec i s = .next s' →
    s'.cfg = s.cfg ∧ s'.extAccess = s.extAccess ∧ s'.sysAccess = s.sysAccess ∧
    s'.inputs = s.inputs ∧ s'.draws = s.draws ∧ s.trace <+: s'.trace ∧
    (writesRegister i = false → s'.core = s.core) ∧
    (s'.core = s.core ∨
      ∃ old, s.core = .on old ∧ s'.core = .on (writtenValue i &&& s.cfg.wmask))

/-- One storage, three names (10_state.md R44): what an operation writes through one view, under WMASK, the
next read through any view returns, bit for bit in the 32 mapped bits. The mask is the spec's derivation
(40_register_access.md R88; log 4), and that the very next read sees the write its decisions D9 and D17
(log 25). -/
def Obligations.ViewsShareOneStorage : Prop :=
  ∀ (s : State) (old : Word) (w r : Instr),
    s.core = .on old → s.extAccess = .rw → s.sysAccess = .allowed →
    writesRegister w = true → writesRegister r = false →
    ∃ s1 s2 o, exec w s = .next s1 ∧ exec r s1 = .next s2 ∧ s2.trace = s1.trace ++ [o] ∧
      viewedWord o = some (writtenValue w &&& s.cfg.wmask)

/-- Two successive writes of the same value, through any two views, leave the register of the first
(20_memory.md R57), and no value can be seen by an arrival after the second that could not after the first.
The second goes on record, with the value it found, in front of what was there: the model's deduction (log
26), since R57 says nothing of the record. -/
def Obligations.SameValueWrittenTwiceChangesNothingMore : Prop :=
  ∀ (s s1 s2 : State) (w w' : Instr), writesRegister w = true → writesRegister w' = true →
    writtenValue w' = writtenValue w →
    s.extAccess = .rw → exec w s = .next s1 → exec w' s1 = .next s2 →
    sameUnit s1 s2 ∧
    ∀ v, s1.core = .on v →
      s2.unsettled.map (·.before) = v :: s1.unsettled.map (·.before) ∧
      ∀ u, s2.mayBeSeen v u ↔ s1.mayBeSeen v u

/-- Of two writers the last wins: a write replaces the whole word, whatever another agent wrote before
(70_reset_and_hazards.md R187). -/
def Obligations.LastWriterWins : Prop :=
  ∀ (s : State) (old : Word) (w w' : Instr),
    s.core = .on old → s.extAccess = .rw → s.sysAccess = .allowed →
    writesRegister w = true → writesRegister w' = true →
    ∃ s1 s2, exec w s = .next s1 ∧ exec w' s1 = .next s2 ∧
      s2.core = .on (writtenValue w' &&& s.cfg.wmask)

/-- After a performed write every field with a meaning holds the written bit, and every other bit holds
the written bit under STORAGE and 0 under RAZ_WI (10_state.md R39, R40, R41, R45, R48, the spec's
decision D3 and derivations). -/
def Obligations.WrittenBitsReadBack : Prop :=
  ∀ (s s' : State) (w : Instr) (old u : Word) (n : Nat), s.cfg.layoutHi.wf = true →
    writesRegister w = true → s.core = .on old → s.extAccess = .rw →
    exec w s = .next s' → s'.core = .on u → n < 32 →
    ((∃ f, s.cfg.variant f ≠ .res0 ∧ s.cfg.layoutHi.pos f = n) →
      u.getLsbD n = (writtenValue w).getLsbD n) ∧
    ((∀ f, s.cfg.layoutHi.pos f = n → s.cfg.variant f = .res0) →
      u.getLsbD n = (s.cfg.res0Kind == .storage && (writtenValue w).getLsbD n))

/-- `Xt[63:32]` and the register numbers are not looked at by a write (30_encoding.md R67, decision D19). -/
def Obligations.UpperHalfOfXtIsNotLookedAt : Prop :=
  ∀ (s : State) (t t' : Nat) (x x' : Dword), x.extractLsb' 0 32 = x'.extractLsb' 0 32 →
    exec (.sys64Wr t x) s = exec (.sys64Wr t' x') s

/-- Reserved bits written through a view change no behaviour, also where they are stored (30_encoding.md
R70, R71; log 4): from states alike but for reserved bits, two writes through the same view that agree in
the bits with a meaning have outcomes alike but for reserved bits. -/
def Obligations.ReservedBitsOfAWriteChangeNoBehaviour : Prop :=
  ∀ (s s' : State), s.clearReserved = s'.clearReserved →
    (∀ v v' : Word, meaningBits s.cfg v = meaningBits s.cfg v' →
      sameButReserved (exec (.extWr v) s) (exec (.extWr v') s') ∧
      ∀ t, sameButReserved (exec (.sys32Wr t v) s) (exec (.sys32Wr t v') s')) ∧
    (∀ (t : Nat) (x x' : Dword),
      meaningBits s.cfg (x.extractLsb' 0 32) = meaningBits s.cfg (x'.extractLsb' 0 32) →
      sameButReserved (exec (.sys64Wr t x) s) (exec (.sys64Wr t x') s'))

/-! ## The query -/

/-- The value tables of the six pairs whose tables name a reset entry: Root EL3, Non-secure EL2 and EL1,
EL3, Secure EL2 and EL1. A reset entry is enabled with the entry, where the implementation catches it.
The rules' example values enable nothing elsewhere under the proposed layout (log 2). -/
def Obligations.PairsThatNameResetEntry : Prop :=
  ∀ (c : Config) (v : Word),
    finePair c v .rootEL3 .rte3 .rtr3 c.resetEntryCatch.rootEL3 ∧
    finePair c v .nonSecureEL2 .nse2 .nsr2 c.resetEntryCatch.nonSecureEL2 ∧
    finePair c v .nonSecureEL1 .nse1 .nsr1 c.resetEntryCatch.nonSecureEL1 ∧
    finePair c v .el3 .se3 .sr3 c.resetEntryCatch.el3 ∧
    finePair c v .secureEL2 .se2 .sr2 c.resetEntryCatch.secureEL2 ∧
    finePair c v .secureEL1 .se1 .sr1 c.resetEntryCatch.secureEL1 ∧
    enablesOnlyAt c 0x88000000#32 .rootEL3 ∧ enablesOnlyAt c 0x00004040#32 .nonSecureEL2 ∧
    enablesOnlyAt c 0x00002020#32 .nonSecureEL1 ∧ enablesOnlyAt c 0x00000808#32 .el3 ∧
    enablesOnlyAt c 0x00000404#32 .secureEL2 ∧ enablesOnlyAt c 0x00000202#32 .secureEL1

/-- The value tables of the two Realm pairs. They name no reset entry, and that none is enabled there is
the spec's decision D25 (log 27). -/
def Obligations.RealmPairs : Prop :=
  ∀ (c : Config) (v : Word),
    finePair c v .realmEL2 .rle2 .rlr2 false ∧ finePair c v .realmEL1 .rle1 .rlr1 false ∧
    enablesOnlyAt c 0x00440000#32 .realmEL2 ∧ enablesOnlyAt c 0x00220000#32 .realmEL1

/-- The three EL0 targets: only a return can be enabled, by the return control alone. -/
def Obligations.ReturnOnlyTargets : Prop :=
  ∀ (c : Config) (v : Word),
    returnOnlyRows c v .realmEL0 .rlr0 ∧ returnOnlyRows c v .nonSecureEL0 .nsr0 ∧
    returnOnlyRows c v .secureEL0 .sr0 ∧
    enablesOnlyAt c 0x00100000#32 .realmEL0 ∧ enablesOnlyAt c 0x00001000#32 .nonSecureEL0 ∧
    enablesOnlyAt c 0x00000100#32 .secureEL0

/-- The four coarse tables; which kinds they cover is the parameter COARSE_KINDS, the spec's own
(41_exception_catch_control.md R140, decision D11; log 10). -/
def Obligations.CoarseControls : Prop :=
  ∀ (c : Config) (v : Word),
    coarseRows c v .nonSecureEL2 .nse2 ∧ coarseRows c v .nonSecureEL1 .nse1 ∧
    coarseRows c v .el3 .se3 ∧ coarseRows c v .secureEL1 .se1

/-- NSR3, NSE3, NSE0 and SE0 enable and disable nothing: in a configuration the source admits, inverting
bit 15, 7, 4 or 0 changes no answer, and no value enables an entry to Non-secure or Secure EL0. -/
def Obligations.NamedRes0FieldsMeanNothing : Prop :=
  ∀ (c : Config) (v : Word) (t : Target) (k : Kind), c.layoutHi.wf = true →
    (∀ n ∈ [15, 7, 4, 0], c.catchEnabled (v ^^^ bitMask n) t k = c.catchEnabled v t k) ∧
    c.catchEnabled v .nonSecureEL0 .entry = false ∧ c.catchEnabled v .secureEL0 .entry = false

/-- The answer for a target depends on that target's one or two fields, and on a field only where it has
a meaning: two values that agree there are answered alike (41_exception_catch_control.md R141, R142). -/
def Obligations.TargetsAreIndependent : Prop :=
  ∀ (c : Config) (v v' : Word) (t : Target),
    (∀ f, (t.entryControl = some f ∨ t.returnControl = f) → c.variant f ≠ .res0 →
      v.getLsbD (c.layoutHi.pos f) = v'.getLsbD (c.layoutHi.pos f)) →
    ∀ k, c.catchEnabled v t k = c.catchEnabled v' t k

/-- A `res0` control reads as 0 whatever is stored: with all of a target's controls `res0` nothing is
enabled, at an EL0 target too; with the return control alone `res0` a fine entry control enables entry and
return alike, and the reset entry where the implementation catches it; with the entry control alone `res0`
a fine return control enables returns only (41_exception_catch_control.md R139, R141, decision D2). -/
def Obligations.Res0ControlsReadAsZero : Prop :=
  ∀ (c : Config) (v : Word) (t : Target),
    (∀ e, t.entryControl = some e →
      (c.variant e = .res0 → c.variant t.returnControl = .res0 → ∀ k, c.catchEnabled v t k = false) ∧
      (c.variant e = .fine → c.variant t.returnControl = .res0 →
        c.catchEnabled v t .entry = v.getLsbD (c.layoutHi.pos e) ∧
        c.catchEnabled v t .resetEntry = (v.getLsbD (c.layoutHi.pos e) && c.catchesReset t) ∧
        c.catchEnabled v t .exceptionReturn = v.getLsbD (c.layoutHi.pos e)) ∧
      (c.variant e = .res0 → c.variant t.returnControl = .fine →
        c.catchEnabled v t .entry = false ∧
        c.catchEnabled v t .resetEntry = false ∧
        c.catchEnabled v t .exceptionReturn = v.getLsbD (c.layoutHi.pos t.returnControl))) ∧
    (t.entryControl = none → c.variant t.returnControl = .res0 → ∀ k, c.catchEnabled v t k = false)

/-- A reset entry is enabled only where the tables mention it and the implementation has chosen to catch
it; never at a Realm level or at EL0 (41_exception_catch_control.md R103, R143, R144, decision D25). -/
def Obligations.ResetEntryNeedsTheImplementationsChoice : Prop :=
  ∀ (c : Config) (v : Word) (t : Target), c.catchEnabled v t .resetEntry = true →
    (t = .rootEL3 ∧ c.resetEntryCatch.rootEL3 = true) ∨
    (t = .nonSecureEL2 ∧ c.resetEntryCatch.nonSecureEL2 = true) ∨
    (t = .nonSecureEL1 ∧ c.resetEntryCatch.nonSecureEL1 = true) ∨
    (t = .el3 ∧ c.resetEntryCatch.el3 = true) ∨
    (t = .secureEL2 ∧ c.resetEntryCatch.secureEL2 = true) ∨
    (t = .secureEL1 ∧ c.resetEntryCatch.secureEL1 = true)

/-- The corner values of 41_exception_catch_control.md R146: 0 enables nothing in any configuration; all
ones, with every field fine, enables entry and no return at the paired targets, and only the return at
the EL0 targets. -/
def Obligations.CornerValuesOfTheQuery : Prop :=
  ∀ (c : Config) (t : Target),
    (∀ k, c.catchEnabled 0#32 t k = false) ∧
    (c.layoutHi.wf = true → c.variants = Variants.allFine →
      c.catchEnabled 0xFFFFFFFF#32 t .entry = t.entryControl.isSome ∧
      c.catchEnabled 0xFFFFFFFF#32 t .exceptionReturn = t.entryControl.isNone)

/-! ## Arrivals -/

/-- An arrival before which every write is ordered: the event is emitted exactly if the register's value
enables it, and the unit does not change (60_exceptions.md R151, decision D13; log 29). When an arrival is
settled (log 12), that it shows the processing element running (log 13), and the counter of draws (log 14)
are the model's choices. -/
def Obligations.SettledArrivalIsDecidedByTheRegister : Prop :=
  ∀ (s : State) (v : Word) (t : Target) (k : Kind) (rest : List Input),
    s.inputs = .arrive t k :: rest → s.core = .on v → s.settled →
    step s = .next { s with
      inputs := rest
      trace := s.trace ++ emission (s.cfg.catchEnabled v t k) (.exceptionCatch t k)
      unsettled := s.unsettled.map UnsettledWrite.markRan
      peRunning := true
      draws := s.draws + 1 }

/-- An arrival not ordered after every write: the event is emitted if every value it may see enables it,
not emitted if none does, and a free draw where they differ (20_memory.md R60, 70_reset_and_hazards.md
R186, decision D9; log 12). -/
def Obligations.RacingArrivalAdmitsOldAndNew : Prop :=
  ∀ (s : State) (v : Word) (t : Target) (k : Kind) (rest : List Input),
    s.inputs = .arrive t k :: rest → s.core = .on v → s.cfg.effectDelay = .unstated →
    ∃ enabled s', step s = .next s' ∧ sameUnit s s' ∧ s'.inputs = rest ∧
      s'.trace = s.trace ++ emission enabled (.exceptionCatch t k) ∧
      (s.cfg.catchEnabled v t k = true →
        (∀ w ∈ s.unsettled, s.cfg.catchEnabled w.before t k = true) → enabled = true) ∧
      (s.cfg.catchEnabled v t k = false →
        (∀ w ∈ s.unsettled, s.cfg.catchEnabled w.before t k = false) → enabled = false) ∧
      ((∃ w ∈ s.unsettled, s.cfg.catchEnabled w.before t k ≠ s.cfg.catchEnabled v t k) →
        enabled = Config.freeDraw s.draws)

/-- No event is generated that no value the arrival may see enables: an output other than nothing means
that a value it may see enables it; for an arrival at Exception level 3 named by level only, at a target
whose pair is consulted (41_exception_catch_control.md R145, R147; log 11, 12). -/
def Obligations.NoEventUnlessEnabled : Prop :=
  ∀ (s s' : State) (v : Word) (k : Kind) (rest : List Input),
    s.core = .on v → step s = .next s' → s'.trace ≠ s.trace →
    (∀ t, s.inputs = .arrive t k :: rest →
      s'.trace = s.trace ++ [.exceptionCatch t k] ∧
      ∃ u, s.mayBeSeen v u ∧ s.cfg.catchEnabled u t k = true) ∧
    (s.inputs = .arriveAtLevel3 k :: rest →
      s'.trace = s.trace ++ [.exceptionCatchAtLevel3 k] ∧
      ∃ u t, s.mayBeSeen v u ∧ pairConsulted s.cfg t ∧ s.cfg.catchEnabled u t k = true)

/-- An arrival at Exception level 3 named by level only, in a settled state: decided by the pair the
configuration names; where it names none, emitted if both pairs enable it, not if neither does, and a
free draw where they differ (41_exception_catch_control.md R145, decision D12; log 11). The output that names
the level only (log 11), when an arrival is settled (log 12), that it shows the processing element running
(log 13), and the counter of draws (log 14) are the model's choices. -/
def Obligations.Level3ArrivalConsultsThePairRule : Prop :=
  ∀ (s : State) (v : Word) (k : Kind) (rest : List Input),
    s.inputs = .arriveAtLevel3 k :: rest → s.core = .on v → s.settled →
    step s = .next { s with
      inputs := rest
      trace := s.trace ++ emission
        (match s.cfg.el3PairRule with
          | .el3Pair => s.cfg.catchEnabled v .el3 k
          | .rootPair => s.cfg.catchEnabled v .rootEL3 k
          | .unstated =>
            if s.cfg.catchEnabled v .el3 k = s.cfg.catchEnabled v .rootEL3 k
            then s.cfg.catchEnabled v .el3 k else Config.freeDraw s.draws)
        (.exceptionCatchAtLevel3 k)
      unsettled := s.unsettled.map UnsettledWrite.markRan
      peRunning := true
      draws := s.draws + 1 }

/-- An arrival at Exception level 3 named by level only, in any state: emitted if every value it may see
enables it at every target whose pair is consulted, not if none does at any, and a free draw otherwise
(41_exception_catch_control.md R145, 70_reset_and_hazards.md R186, decisions D9 and D12; log 11, 12). -/
def Obligations.RacingLevel3ArrivalAdmitsEveryOutcome : Prop :=
  ∀ (s : State) (v : Word) (k : Kind) (rest : List Input),
    s.inputs = .arriveAtLevel3 k :: rest → s.core = .on v →
    ∃ enabled s', step s = .next s' ∧ sameUnit s s' ∧ s'.inputs = rest ∧
      s'.trace = s.trace ++ emission enabled (.exceptionCatchAtLevel3 k) ∧
      ((∀ u t, s.mayBeSeen v u → pairConsulted s.cfg t → s.cfg.catchEnabled u t k = true) →
        enabled = true) ∧
      ((∀ u t, s.mayBeSeen v u → pairConsulted s.cfg t → s.cfg.catchEnabled u t k = false) →
        enabled = false) ∧
      ((∃ u t, s.mayBeSeen v u ∧ pairConsulted s.cfg t ∧ s.cfg.catchEnabled u t k = true) →
        (∃ u t, s.mayBeSeen v u ∧ pairConsulted s.cfg t ∧ s.cfg.catchEnabled u t k = false) →
        enabled = Config.freeDraw s.draws)

/-- The model's choice (log 17): an arrival while the Core power domain is off is refused, because there is
no value to decide it. -/
def Obligations.ArrivalWithDomainOffIsRefused : Prop :=
  ∀ (s : State) (t : Target) (k : Kind) (rest : List Input), s.core = .off →
    (s.inputs = .arrive t k :: rest → step s = .refused .arrivalCoreOff) ∧
    (s.inputs = .arriveAtLevel3 k :: rest → step s = .refused .arrivalCoreOff)

/-- First ordering of 70_reset_and_hazards.md R186 (the spec's own, decision D23; log 13): a write by the
debugger, of the value already held too, read back by the debugger while the processing element is
stopped, is seen by the next arrival, whatever was on record before it. -/
def Obligations.ReadBackOrdersTheDebuggersWrite : Prop :=
  ∀ (s : State) (old v : Word) (a : ExtAccess) (y y' : SysAccess) (f f' : List Byte)
    (t : Target) (k : Kind) (rest : List Input),
    s.core = .on old → s.peRunning = false → a ≠ .error →
    decode f = .op (.extWr v) → decode f' = .op .extRd →
    s.inputs = .access .rw y f :: .access a y' f' :: .arrive t k :: rest →
    ∃ s1 s2 s3, step s = .next s1 ∧ step s1 = .next s2 ∧ step s2 = .next s3 ∧
      s3.core = .on (v &&& s.cfg.wmask) ∧
      s3.trace = s.trace ++ [.extDone, .extValue (v &&& s.cfg.wmask)] ++
        emission (s.cfg.catchEnabled (v &&& s.cfg.wmask) t k) (.exceptionCatch t k)

/-- Second ordering of 70_reset_and_hazards.md R186 (the spec's own, decision D23; log 13): a write by the
processing element through a System register view, of the value already held too, after a
synchronisation the environment vouches for, is seen by the next arrival, whatever was on record before it. -/
def Obligations.SynchronisationOrdersTheProcessorsWrite : Prop :=
  ∀ (s : State) (old : Word) (a : ExtAccess) (w : Instr) (f : List Byte)
    (t : Target) (k : Kind) (rest : List Input),
    s.core = .on old → decode f = .op w →
    ((∃ n x, w = .sys64Wr n x) ∨ ∃ n x, w = .sys32Wr n x) →
    s.inputs = .access a .allowed f :: .synchronised :: .arrive t k :: rest →
    ∃ s1 s2 s3, step s = .next s1 ∧ step s1 = .next s2 ∧ step s2 = .next s3 ∧
      s3.core = .on (writtenValue w &&& s.cfg.wmask) ∧
      s3.trace = s.trace ++
        emission (s.cfg.catchEnabled (writtenValue w &&& s.cfg.wmask) t k) (.exceptionCatch t k)

/-- What a debugger's read settles: everything, if the newest write on record is the debugger's and the
processing element has not run since it; otherwise the record stays as it is, and so it does where the read
is answered ERROR (70_reset_and_hazards.md R186, first ordering; log 13). -/
def Obligations.ReadBackSettlesOnlyTheDebuggersOwnWrite : Prop :=
  ∀ (s s' : State) (w : UnsettledWrite) (older : List UnsettledWrite),
    s.unsettled = w :: older → exec .extRd s = .next s' →
    (s.core ≠ .off → s.extAccess ≠ .error → w.writer = .debugger → w.peRan = false →
      s'.unsettled = []) ∧
    (w.writer = .processor ∨ w.peRan = true ∨ s.core = .off ∨ s.extAccess = .error →
      s'.unsettled = s.unsettled)

/-- What a synchronisation settles: the processing element's newest write and every older one, and no write
of the debugger's after it; with no write of the processing element's on record, none
(70_reset_and_hazards.md R186, second ordering; log 13). -/
def Obligations.SynchronisationSettlesUpToTheProcessorsWrite : Prop :=
  ∀ (s : State) (rest : List Input), s.inputs = .synchronised :: rest →
    (∀ (newer older : List UnsettledWrite) (w : UnsettledWrite),
      s.unsettled = newer ++ w :: older → (∀ u ∈ newer, u.writer = .debugger) →
      w.writer = .processor → step s = .next { s with inputs := rest, unsettled := newer }) ∧
    ((∀ u ∈ s.unsettled, u.writer = .debugger) → step s = .next { s with inputs := rest })

/-- No ordering: once the processing element has run, the debugger's read-back of its write leaves the old
value open to the next arrival, a free draw where it and the new value differ (70_reset_and_hazards.md
R186; log 12, 13). -/
def Obligations.ReadBackAfterTheProcessorRanOrdersNothing : Prop :=
  ∀ (s : State) (old v : Word) (a : ExtAccess) (y y' : SysAccess) (f f' : List Byte)
    (t : Target) (k : Kind) (rest : List Input),
    s.core = .on old → s.cfg.effectDelay = .unstated → a ≠ .error →
    decode f = .op (.extWr v) → decode f' = .op .extRd →
    s.cfg.catchEnabled old t k ≠ s.cfg.catchEnabled (v &&& s.cfg.wmask) t k →
    s.inputs = .access .rw y f :: .processorRuns true :: .access a y' f' :: .arrive t k :: rest →
    ∃ s1 s2 s3 s4, step s = .next s1 ∧ step s1 = .next s2 ∧ step s2 = .next s3 ∧ step s3 = .next s4 ∧
      s4.core = .on (v &&& s.cfg.wmask) ∧
      s4.trace = s.trace ++ [.extDone, .extValue (v &&& s.cfg.wmask)] ++
        emission (Config.freeDraw s.draws) (.exceptionCatch t k)

/-- No ordering: the debugger's read of a write made by the processing element leaves the old value open to
the next arrival (70_reset_and_hazards.md R186; log 12, 13). -/
def Obligations.DebuggersReadOfTheProcessorsWriteOrdersNothing : Prop :=
  ∀ (s : State) (old : Word) (a a' : ExtAccess) (y' : SysAccess) (w : Instr) (f f' : List Byte)
    (t : Target) (k : Kind) (rest : List Input),
    s.core = .on old → s.cfg.effectDelay = .unstated → a' ≠ .error →
    ((∃ n x, w = .sys64Wr n x) ∨ ∃ n x, w = .sys32Wr n x) →
    decode f = .op w → decode f' = .op .extRd →
    s.cfg.catchEnabled old t k ≠ s.cfg.catchEnabled (writtenValue w &&& s.cfg.wmask) t k →
    s.inputs = .access a .allowed f :: .access a' y' f' :: .arrive t k :: rest →
    ∃ s1 s2 s3, step s = .next s1 ∧ step s1 = .next s2 ∧ step s2 = .next s3 ∧
      s3.core = .on (writtenValue w &&& s.cfg.wmask) ∧
      s3.trace = s.trace ++ [.extValue (writtenValue w &&& s.cfg.wmask)] ++
        emission (Config.freeDraw s.draws) (.exceptionCatch t k)

/-- No ordering: a synchronisation does not order a write of the debugger's, whatever older writes it
settles (70_reset_and_hazards.md R186; log 12, 13). -/
def Obligations.SynchronisationOrdersNoWriteOfTheDebuggers : Prop :=
  ∀ (s : State) (old v : Word) (y : SysAccess) (f : List Byte) (t : Target) (k : Kind)
    (rest : List Input),
    s.core = .on old → s.cfg.effectDelay = .unstated → decode f = .op (.extWr v) →
    s.cfg.catchEnabled old t k ≠ s.cfg.catchEnabled (v &&& s.cfg.wmask) t k →
    s.inputs = .access .rw y f :: .synchronised :: .arrive t k :: rest →
    ∃ s1 s2 s3, step s = .next s1 ∧ step s1 = .next s2 ∧ step s2 = .next s3 ∧
      s3.core = .on (v &&& s.cfg.wmask) ∧
      s3.trace = s.trace ++ [.extDone] ++
        emission (Config.freeDraw s.draws) (.exceptionCatch t k)

/-- The notice that the processing element runs marks every write on record as one since which it has run,
and leaves the rest; the notice that it is stopped changes no write on record (70_reset_and_hazards.md
R186; log 13). -/
def Obligations.RunningNoticesChangeOnlyTheRecord : Prop :=
  ∀ (s : State) (rest : List Input),
    (s.inputs = .processorRuns true :: rest →
      step s = .next { s with
        inputs := rest, peRunning := true
        unsettled := s.unsettled.map fun w => { w with peRan := true } }) ∧
    (s.inputs = .processorRuns false :: rest →
      step s = .next { s with inputs := rest, peRunning := false })

/-! ## Reset and power -/

/-- A reset whose kind is in RESETS_ON gives the register RESET_VALUE in its meaning fields and 0 in its
reserved bits; another leaves it as it is (10_state.md R42, decision D4; log 5). That the processing element
runs after it, and what becomes of the record of order, is the model's choice (log 13, 28). -/
def Obligations.ResetsOfTheRegister : Prop :=
  ∀ (s : State) (old : Word) (r : ResetKind) (rest : List Input),
    s.inputs = .reset r :: rest → s.core = .on old →
    (s.cfg.resetsOnKind r = true → step s = .next { s with
      inputs := rest, core := .on (s.cfg.resetValue &&& s.cfg.activeMask)
      unsettled := [], peRunning := true }) ∧
    (s.cfg.resetsOnKind r = false → step s = .next { s with
      inputs := rest, unsettled := s.unsettled.map UnsettledWrite.markRan, peRunning := true })

/-- With the default reset value no arrival after a Cold reset is caught, at a named target or at Exception
level 3 named by level only (10_state.md R42, the spec's decision D4; log 5). That such a reset is ordered
before every later arrival is the model's choice (log 28). -/
def Obligations.NothingIsCaughtAfterAColdReset : Prop :=
  ∀ (s : State) (old : Word) (t : Target) (k : Kind) (rest : List Input),
    s.inputs = .reset .cold :: .arrive t k :: rest ∨ s.inputs = .reset .cold :: .arriveAtLevel3 k :: rest →
    s.core = .on old → s.cfg.resetsOn.cold = true → s.cfg.resetValue = 0#32 →
    ∃ s1 s2, step s = .next s1 ∧ step s1 = .next s2 ∧ s2.core = .on 0#32 ∧ s2.trace = s.trace

/-- A register that holds an entry control over a Warm reset catches the reset entry that follows exactly
if the implementation catches it there and, for a coarse control, COARSE_KINDS covers it, at each of the
six targets that have a reset entry (60_exceptions.md R156, which the spec derives; decisions D4, D10, D11).
When an arrival is settled is the model's choice (log 12). -/
def Obligations.WarmResetKeepsTheCatchOfItsResetEntry : Prop :=
  ∀ (s : State) (v : Word) (t : Target) (e : FieldName) (caught : Bool) (rest : List Input),
    (t, e, caught) ∈ resetEntryTargets s.cfg →
    s.inputs = .reset .warm :: .arrive t .resetEntry :: rest → s.core = .on v → s.settled →
    s.cfg.resetsOn.warm = false → s.cfg.variant e ≠ .res0 → v.getLsbD (s.cfg.layoutHi.pos e) = true →
    ∃ s1 s2, step s = .next s1 ∧ step s1 = .next s2 ∧ s2.core = .on v ∧
      s2.trace = s.trace ++ emission
        (caught && (s.cfg.variant e == .fine || s.cfg.coarseKinds.resetEntry))
        (.exceptionCatch t .resetEntry)

/-- While the Core power domain is off every external access is answered ERROR, and powering up gives the
register its Cold reset value, whatever it held (10_state.md R43, decision D15; log 15). -/
def Obligations.PowerCycleLosesTheValue : Prop :=
  ∀ (s : State) (a : ExtAccess) (y : SysAccess) (f : List Byte) (i : Instr) (rest : List Input),
    (i = .extRd ∨ ∃ v, i = .extWr v) → decode f = .op i →
    s.inputs = .powerOff :: .access a y f :: .powerOn :: rest →
    ∃ s1 s2 s3, step s = .next s1 ∧ step s1 = .next s2 ∧ step s2 = .next s3 ∧
      s1.core = .off ∧ s2.core = .off ∧ s3.trace = s.trace ++ [.extError] ∧
      s3.core = .on (s.cfg.resetValue &&& s.cfg.activeMask) ∧ s3.unsettled = []

/-- The machine right after reset: the domain on, the register 0 (PRESUMED, log 5), nothing to see or to
wait for, and the invariant holds. -/
def Obligations.ResetStateIsLegal : Prop :=
  State.reset.core = .on 0#32 ∧ State.reset.inputs = [] ∧ State.reset.trace = [] ∧
  State.reset.settled ∧ State.reset.legal = true

/-! ## The whole machine -/

/-- A step whose next event is the request of an operation runs that operation, in the state in which the
event is taken and the environment's two answers stand beside it. Requests as frames in a list of events
are the model's own (log 18, 19). -/
def Obligations.StepRunsTheDecodedOperation : Prop :=
  ∀ (s : State) (e : ExtAccess) (y : SysAccess) (f : List Byte) (i : Instr) (rest : List Input),
    s.inputs = .access e y f :: rest → decode f = .op i →
    step s = exec i { s with inputs := rest, extAccess := e, sysAccess := y }

/-- An external access that misses the register, and an access to a System register other than the two
views, decode to nothing of the unit; such a request is passed to the environment, neither performed nor
refused, and changes nothing in the unit (40_register_access.md R91). The frames are the model's own (log 18),
which accesses touch the register rests on decision D6 (log 24), and that the record of order stays, also for
another System register, is the model's choice (log 13). -/
def Obligations.OtherAccessesArePassedOn : Prop :=
  (∀ dir d w v, missesRegister d w → decode (frameOf (.ext dir d w v)) = .outside) ∧
  (∀ dir t x, decode (frameOf (.sys64 dir .other t x)) = .outside) ∧
  (∀ dir t x, decode (frameOf (.sys32 dir .other t x)) = .outside) ∧
  ∀ (s : State) (e : ExtAccess) (y : SysAccess) (f : List Byte) (rest : List Input),
    s.inputs = .access e y f :: rest → decode f = .outside →
    ∃ s', step s = .next s' ∧ sameUnit s s' ∧ s'.inputs = rest ∧ s'.unsettled = s.unsettled ∧
      s'.trace = s.trace ++ [.passed f]

/-- Every step keeps the invariant: a configuration the source admits, `EDECCR AND NOT WMASK = 0`
(40_register_access.md R88), the same of every value an arrival may still see, and no value while the
domain is off (10_state.md R43). What stands on record is the model's choice (log 12, 13). -/
def Obligations.EveryStepKeepsTheStateLegal : Prop :=
  ∀ s s' : State, s.legal = true → step s = .next s' → s'.legal = true

/-- The register changes only when an operation that writes it, a reset, or a change of the power domain
is the event taken: no read, no arrival, no notice and no access to anything else changes it
(20_memory.md R57, 40_register_access.md R91, 60_exceptions.md R151). -/
def Obligations.OnlyWritesResetsAndPowerChangeTheRegister : Prop :=
  ∀ s s' : State, step s = .next s' → s'.core ≠ s.core →
    ∃ e rest, s.inputs = e :: rest ∧ mayChangeRegister e = true

/-- Reserved bits have no effect on any behaviour, also where they are stored (10_state.md R39, 30_encoding.md
R70, R71; log 4, 33): from two states alike but for reserved bits, the step has outcomes alike but for
reserved bits; the same events are emitted, and what is read differs in no bit with a meaning. -/
def Obligations.ReservedBitsChangeNoBehaviour : Prop :=
  ∀ s s' : State, s.clearReserved = s'.clearReserved → sameButReserved (step s) (step s')

/-- The configuration is fixed for the life of the machine: no step changes it, resets among them
(70_reset_and_hazards.md R181; log 1). -/
def Obligations.NoStepChangesTheConfiguration : Prop :=
  ∀ s s' : State, step s = .next s' → s'.cfg = s.cfg

/-- A step stops only for a request it cannot take or a unit that holds no value: with the domain on,
System register accesses allowed, and every request decoding to an operation or to something outside,
the step answers a next state. The unit itself raises no exception (60_exceptions.md R152). -/
def Obligations.StepsCompleteWithTheDomainOn : Prop :=
  ∀ (s : State) (v : Word), s.core = .on v →
    (∀ e y f rest, s.inputs = .access e y f :: rest →
      y = .allowed ∧ ∀ r, decode f ≠ .rejected r) →
    ∃ s', step s = .next s'

/-- The values the register holds stay inside what its storage can hold along every run: after any number of
steps from a legal state that all answer a next state, the state is legal and the configuration is the
one it began with. -/
def Obligations.EveryRunStaysLegal : Prop :=
  ∀ (n : Nat) (s s' : State), s.legal = true → Sys2Proof.core.run n s = .next s' →
    s'.legal = true ∧ s'.cfg = s.cfg
end

