-- ==== Sys2Proof/Laws/Frame.lean ====
section
/-! SUPPORT. The byte order of a frame: a number is read back from its bytes. -/

namespace Sys2Proof

@[simp] theorem leBytes_length (k n : Nat) : (leBytes k n).length = k := by
  induction k generalizing n with
  | zero => rfl
  | succ k ih => simp [leBytes, ih]

/-- Reading back the low `k` bytes of a number gives it modulo 256 to the `k`. -/
theorem leNat_leBytes (k n : Nat) : leNat (leBytes k n) = n % 256 ^ k := by
  induction k generalizing n with
  | zero => simp [leBytes, leNat, Nat.mod_one]
  | succ k ih =>
    have h : n % 256 ^ (k + 1) = n % 256 + 256 * (n / 256 % 256 ^ k) := by
      rw [Nat.pow_succ' (m := 256), Nat.mod_mul]
    rw [leBytes, leNat, ih, BitVec.toNat_ofNat, h]

/-- Every frame the encoder makes is sixteen bytes long. -/
theorem frameOf_length (r : Request) : (frameOf r).length = 16 := by
  cases r <;> simp [frameOf]

end Sys2Proof
end

