-- ==== Sys2Proof/Laws/State.lean ====
section
/-! SUPPORT. One lemma per field per update of the state, true by rfl. -/

namespace Sys2Proof.Machine

/-! The fields after `respond`. -/

@[simp] theorem State.respond_cfg (s : State) (o : Output) : (s.respond o).cfg = s.cfg := rfl
@[simp] theorem State.respond_core (s : State) (o : Output) : (s.respond o).core = s.core := rfl
@[simp] theorem State.respond_extAccess (s : State) (o : Output) : (s.respond o).extAccess = s.extAccess := rfl
@[simp] theorem State.respond_sysAccess (s : State) (o : Output) : (s.respond o).sysAccess = s.sysAccess := rfl
@[simp] theorem State.respond_inputs (s : State) (o : Output) : (s.respond o).inputs = s.inputs := rfl
@[simp] theorem State.respond_trace (s : State) (o : Output) : (s.respond o).trace = s.trace ++ [o] := rfl
@[simp] theorem State.respond_unsettled (s : State) (o : Output) : (s.respond o).unsettled = s.unsettled := rfl
@[simp] theorem State.respond_peRunning (s : State) (o : Output) : (s.respond o).peRunning = s.peRunning := rfl
@[simp] theorem State.respond_draws (s : State) (o : Output) : (s.respond o).draws = s.draws := rfl

/-! The fields after `processorIsRunning`. -/

@[simp] theorem State.processorIsRunning_cfg (s : State) : s.processorIsRunning.cfg = s.cfg := rfl
@[simp] theorem State.processorIsRunning_core (s : State) : s.processorIsRunning.core = s.core := rfl
@[simp] theorem State.processorIsRunning_extAccess (s : State) : s.processorIsRunning.extAccess = s.extAccess := rfl
@[simp] theorem State.processorIsRunning_sysAccess (s : State) : s.processorIsRunning.sysAccess = s.sysAccess := rfl
@[simp] theorem State.processorIsRunning_inputs (s : State) : s.processorIsRunning.inputs = s.inputs := rfl
@[simp] theorem State.processorIsRunning_trace (s : State) : s.processorIsRunning.trace = s.trace := rfl
@[simp] theorem State.processorIsRunning_unsettled (s : State) : s.processorIsRunning.unsettled = s.unsettled.map UnsettledWrite.markRan := rfl
@[simp] theorem State.processorIsRunning_peRunning (s : State) : s.processorIsRunning.peRunning = true := rfl
@[simp] theorem State.processorIsRunning_draws (s : State) : s.processorIsRunning.draws = s.draws := rfl

/-! The fields after `processorIsStopped`. -/

@[simp] theorem State.processorIsStopped_cfg (s : State) : s.processorIsStopped.cfg = s.cfg := rfl
@[simp] theorem State.processorIsStopped_core (s : State) : s.processorIsStopped.core = s.core := rfl
@[simp] theorem State.processorIsStopped_extAccess (s : State) : s.processorIsStopped.extAccess = s.extAccess := rfl
@[simp] theorem State.processorIsStopped_sysAccess (s : State) : s.processorIsStopped.sysAccess = s.sysAccess := rfl
@[simp] theorem State.processorIsStopped_inputs (s : State) : s.processorIsStopped.inputs = s.inputs := rfl
@[simp] theorem State.processorIsStopped_trace (s : State) : s.processorIsStopped.trace = s.trace := rfl
@[simp] theorem State.processorIsStopped_unsettled (s : State) : s.processorIsStopped.unsettled = s.unsettled := rfl
@[simp] theorem State.processorIsStopped_peRunning (s : State) : s.processorIsStopped.peRunning = false := rfl
@[simp] theorem State.processorIsStopped_draws (s : State) : s.processorIsStopped.draws = s.draws := rfl

/-! The fields after `debuggerHasRead`. -/

@[simp] theorem State.debuggerHasRead_cfg (s : State) : s.debuggerHasRead.cfg = s.cfg := rfl
@[simp] theorem State.debuggerHasRead_core (s : State) : s.debuggerHasRead.core = s.core := rfl
@[simp] theorem State.debuggerHasRead_extAccess (s : State) : s.debuggerHasRead.extAccess = s.extAccess := rfl
@[simp] theorem State.debuggerHasRead_sysAccess (s : State) : s.debuggerHasRead.sysAccess = s.sysAccess := rfl
@[simp] theorem State.debuggerHasRead_inputs (s : State) : s.debuggerHasRead.inputs = s.inputs := rfl
@[simp] theorem State.debuggerHasRead_trace (s : State) : s.debuggerHasRead.trace = s.trace := rfl
@[simp] theorem State.debuggerHasRead_unsettled (s : State) : s.debuggerHasRead.unsettled = settledByRead s.unsettled := rfl
@[simp] theorem State.debuggerHasRead_peRunning (s : State) : s.debuggerHasRead.peRunning = s.peRunning := rfl
@[simp] theorem State.debuggerHasRead_draws (s : State) : s.debuggerHasRead.draws = s.draws := rfl

/-! The fields after `takeInput`. -/

@[simp] theorem State.takeInput_cfg (s : State) (rest : List Input) : (s.takeInput rest).cfg = s.cfg := rfl
@[simp] theorem State.takeInput_core (s : State) (rest : List Input) : (s.takeInput rest).core = s.core := rfl
@[simp] theorem State.takeInput_extAccess (s : State) (rest : List Input) : (s.takeInput rest).extAccess = s.extAccess := rfl
@[simp] theorem State.takeInput_sysAccess (s : State) (rest : List Input) : (s.takeInput rest).sysAccess = s.sysAccess := rfl
@[simp] theorem State.takeInput_inputs (s : State) (rest : List Input) : (s.takeInput rest).inputs = rest := rfl
@[simp] theorem State.takeInput_trace (s : State) (rest : List Input) : (s.takeInput rest).trace = s.trace := rfl
@[simp] theorem State.takeInput_unsettled (s : State) (rest : List Input) : (s.takeInput rest).unsettled = s.unsettled := rfl
@[simp] theorem State.takeInput_peRunning (s : State) (rest : List Input) : (s.takeInput rest).peRunning = s.peRunning := rfl
@[simp] theorem State.takeInput_draws (s : State) (rest : List Input) : (s.takeInput rest).draws = s.draws := rfl

/-! The fields after `takeAccess`. -/

@[simp] theorem State.takeAccess_cfg (s : State) (rest : List Input) (e : ExtAccess) (y : SysAccess) : (s.takeAccess rest e y).cfg = s.cfg := rfl
@[simp] theorem State.takeAccess_core (s : State) (rest : List Input) (e : ExtAccess) (y : SysAccess) : (s.takeAccess rest e y).core = s.core := rfl
@[simp] theorem State.takeAccess_extAccess (s : State) (rest : List Input) (e : ExtAccess) (y : SysAccess) : (s.takeAccess rest e y).extAccess = e := rfl
@[simp] theorem State.takeAccess_sysAccess (s : State) (rest : List Input) (e : ExtAccess) (y : SysAccess) : (s.takeAccess rest e y).sysAccess = y := rfl
@[simp] theorem State.takeAccess_inputs (s : State) (rest : List Input) (e : ExtAccess) (y : SysAccess) : (s.takeAccess rest e y).inputs = rest := rfl
@[simp] theorem State.takeAccess_trace (s : State) (rest : List Input) (e : ExtAccess) (y : SysAccess) : (s.takeAccess rest e y).trace = s.trace := rfl
@[simp] theorem State.takeAccess_unsettled (s : State) (rest : List Input) (e : ExtAccess) (y : SysAccess) : (s.takeAccess rest e y).unsettled = s.unsettled := rfl
@[simp] theorem State.takeAccess_peRunning (s : State) (rest : List Input) (e : ExtAccess) (y : SysAccess) : (s.takeAccess rest e y).peRunning = s.peRunning := rfl
@[simp] theorem State.takeAccess_draws (s : State) (rest : List Input) (e : ExtAccess) (y : SysAccess) : (s.takeAccess rest e y).draws = s.draws := rfl

/-! The fields after `resetRegister`. -/

@[simp] theorem State.resetRegister_cfg (s : State) : s.resetRegister.cfg = s.cfg := rfl
@[simp] theorem State.resetRegister_core (s : State) : s.resetRegister.core = .on s.cfg.valueAtReset := rfl
@[simp] theorem State.resetRegister_extAccess (s : State) : s.resetRegister.extAccess = s.extAccess := rfl
@[simp] theorem State.resetRegister_sysAccess (s : State) : s.resetRegister.sysAccess = s.sysAccess := rfl
@[simp] theorem State.resetRegister_inputs (s : State) : s.resetRegister.inputs = s.inputs := rfl
@[simp] theorem State.resetRegister_trace (s : State) : s.resetRegister.trace = s.trace := rfl
@[simp] theorem State.resetRegister_unsettled (s : State) : s.resetRegister.unsettled = [] := rfl
@[simp] theorem State.resetRegister_peRunning (s : State) : s.resetRegister.peRunning = s.peRunning := rfl
@[simp] theorem State.resetRegister_draws (s : State) : s.resetRegister.draws = s.draws := rfl

/-! The fields of a marked write. -/

@[simp] theorem UnsettledWrite.markRan_before (w : UnsettledWrite) : w.markRan.before = w.before := rfl
@[simp] theorem UnsettledWrite.markRan_writer (w : UnsettledWrite) : w.markRan.writer = w.writer := rfl
@[simp] theorem UnsettledWrite.markRan_peRan (w : UnsettledWrite) : w.markRan.peRan = true := rfl

/-! What a register write leaves alone. -/

@[simp] theorem State.writeRegister_cfg (s : State) (w : Writer) (v : Word) :
    (s.writeRegister w v).cfg = s.cfg := by
  unfold State.writeRegister
  split <;> rfl

@[simp] theorem State.writeRegister_extAccess (s : State) (w : Writer) (v : Word) :
    (s.writeRegister w v).extAccess = s.extAccess := by
  unfold State.writeRegister
  split <;> rfl

@[simp] theorem State.writeRegister_sysAccess (s : State) (w : Writer) (v : Word) :
    (s.writeRegister w v).sysAccess = s.sysAccess := by
  unfold State.writeRegister
  split <;> rfl

@[simp] theorem State.writeRegister_inputs (s : State) (w : Writer) (v : Word) :
    (s.writeRegister w v).inputs = s.inputs := by
  unfold State.writeRegister
  split <;> rfl

@[simp] theorem State.writeRegister_trace (s : State) (w : Writer) (v : Word) :
    (s.writeRegister w v).trace = s.trace := by
  unfold State.writeRegister
  split <;> rfl

@[simp] theorem State.writeRegister_peRunning (s : State) (w : Writer) (v : Word) :
    (s.writeRegister w v).peRunning = s.peRunning := by
  unfold State.writeRegister
  split <;> rfl

@[simp] theorem State.writeRegister_draws (s : State) (w : Writer) (v : Word) :
    (s.writeRegister w v).draws = s.draws := by
  unfold State.writeRegister
  split <;> rfl

end Sys2Proof.Machine
end

