-- ==== Sys2Proof/Laws/Ops.lean ====
section
/-! SUPPORT. For each shared operation, once, everything it can do. -/

namespace Sys2Proof.Machine

open Host

/-- A register write with the domain on: the masked value is stored, and the write goes on record with the
value before it. -/
theorem State.writeRegister_on {s : State} {old : Word} (h : s.core = .on old) (w : Writer) (v : Word) :
    s.writeRegister w v =
      { s with
        core := .on (v &&& s.cfg.wmask)
        unsettled := { before := old, writer := w, peRan := s.peRunning } :: s.unsettled } := by
  unfold State.writeRegister
  rw [h]

/-- A register write with the domain off does nothing. -/
theorem State.writeRegister_off {s : State} (h : s.core = .off) (w : Writer) (v : Word) :
    s.writeRegister w v = s := by
  unfold State.writeRegister
  rw [h]

/-- The register after a write with the domain on. -/
theorem State.writeRegister_core_on {s : State} {old : Word} (h : s.core = .on old) (w : Writer)
    (v : Word) : (s.writeRegister w v).core = .on (v &&& s.cfg.wmask) := by
  rw [State.writeRegister_on h]

/-- The writes on record after a write are the old ones, or the old ones behind one for it. -/
theorem State.writeRegister_unsettled (s : State) (w : Writer) (v : Word) :
    (s.writeRegister w v).unsettled = s.unsettled ∨
      ∃ old, s.core = .on old ∧
        (s.writeRegister w v).unsettled =
          { before := old, writer := w, peRan := s.peRunning } :: s.unsettled := by
  unfold State.writeRegister
  split
  · exact .inl rfl
  · next old h => exact .inr ⟨old, h, rfl⟩

/-- What a debugger's read leaves on record: nothing, or everything. -/
theorem settledByRead_cases (ws : List UnsettledWrite) :
    settledByRead ws = [] ∨ settledByRead ws = ws := by
  cases ws with
  | nil => exact .inl rfl
  | cons w ws =>
    simp only [settledByRead]
    split
    · exact .inl rfl
    · exact .inr rfl

/-- A read leaves nothing on record if the newest write is the debugger's and the processing element has not
run since. -/
theorem settledByRead_settles {w : UnsettledWrite} {ws : List UnsettledWrite}
    (hd : w.writer = .debugger) (hr : w.peRan = false) : settledByRead (w :: ws) = [] := by
  simp [settledByRead, hd, hr]

/-- A read leaves the record as it is if the newest write is the processor's, or the processing element has
run since. -/
theorem settledByRead_keeps {w : UnsettledWrite} {ws : List UnsettledWrite}
    (h : w.writer = .processor ∨ w.peRan = true) : settledByRead (w :: ws) = w :: ws := by
  rcases h with h | h <;> simp [settledByRead, h]

/-- A synchronisation drops the processor's newest write and everything older. -/
theorem settledBySync_append {ws older : List UnsettledWrite} {w : UnsettledWrite}
    (hd : ∀ u ∈ ws, u.writer = .debugger) (hp : w.writer = .processor) :
    settledBySync (ws ++ w :: older) = ws := by
  have hw : (w.writer != .processor) = false := by rw [hp]; rfl
  rw [settledBySync, List.takeWhile_append_of_pos (fun u hu => by rw [hd u hu]; rfl),
    List.takeWhile_cons_of_neg (by simp [hw]), List.append_nil]

/-- A synchronisation leaves a record without a write of the processor's as it is. -/
theorem settledBySync_keeps {ws : List UnsettledWrite} (hd : ∀ u ∈ ws, u.writer = .debugger) :
    settledBySync ws = ws :=
  List.takeWhile_eq_self_iff.2 fun u hu => by rw [hd u hu]; rfl

/-- A write left on record by a synchronisation was on record before it. -/
theorem mem_of_mem_settledBySync {w : UnsettledWrite} {ws : List UnsettledWrite}
    (h : w ∈ settledBySync ws) : w ∈ ws :=
  (List.takeWhile_sublist _).subset h

/-- Outcomes that agree on `true` resolve to it. -/
theorem resolve_all_true {n : Nat} {outcomes : List Bool} (h : ∀ b ∈ outcomes, b = true) :
    resolve n outcomes = true := by
  have : outcomes.all id = true := by
    simpa [List.all_eq_true] using h
  simp [resolve, this]

/-- Outcomes, at least one of them, that agree on `false` resolve to it. -/
theorem resolve_all_false {n : Nat} {outcomes : List Bool} (hne : outcomes ≠ [])
    (h : ∀ b ∈ outcomes, b = false) : resolve n outcomes = false := by
  have hany : outcomes.any id = false := by
    simpa [List.any_eq_false] using h
  have hall : outcomes.all id = false := by
    cases outcomes with
    | nil => exact absurd rfl hne
    | cons b bs => simp [h b (by simp)]
  simp [resolve, hall, hany]

/-- Outcomes that differ resolve to the free draw. -/
theorem resolve_differ {n : Nat} {outcomes : List Bool} (ht : true ∈ outcomes) (hf : false ∈ outcomes) :
    resolve n outcomes = Config.freeDraw n := by
  have hall : outcomes.all id = false := by
    simpa [List.all_eq_false] using hf
  have hany : outcomes.any id = true := by
    simpa [List.any_eq_true] using ht
  simp [resolve, hall, hany]

/-- A single outcome resolves to itself. -/
@[simp] theorem resolve_singleton (n : Nat) (b : Bool) : resolve n [b] = b := by
  cases b <;> rfl

/-- If a System register access answers a next state, it was allowed and the domain was on. -/
theorem State.sysRegisterAccess_next {s s' : State} {go : Word → State → Outcome State Fault Refusal}
    (h : s.sysRegisterAccess go = .next s') :
    ∃ v, s.sysAccess = .allowed ∧ s.core = .on v ∧ go v s.processorIsRunning = .next s' := by
  unfold State.sysRegisterAccess at h
  split at h
  · cases h
  · next hy =>
    split at h
    · cases h
    · next v hc => exact ⟨v, hy, hc, h⟩

/-- A System register access that is allowed, with the domain on, goes on with the register's value. -/
theorem State.sysRegisterAccess_allowed {s : State} {v : Word}
    {go : Word → State → Outcome State Fault Refusal}
    (hy : s.sysAccess = .allowed) (hc : s.core = .on v) :
    s.sysRegisterAccess go = go v s.processorIsRunning := by
  simp [State.sysRegisterAccess, hy, hc]

/-- Everything an arrival can do when it answers a next state. -/
theorem State.presentArrival_next {s s' : State} {outcomes : Word → List Bool} {o : Output}
    (h : s.presentArrival outcomes o = .next s') :
    ∃ v, s.core = .on v ∧
      s' = { s.processorIsRunning with
        draws := s.draws + 1
        trace := if resolve s.draws ((s.visibleValues v).flatMap outcomes) then s.trace ++ [o]
          else s.trace } := by
  unfold State.presentArrival at h
  split at h
  · cases h
  · next v hc =>
    refine ⟨v, hc, ?_⟩
    dsimp only at h
    split at h
    · next hr =>
      simp only [hr]
      exact (Outcome.next.inj h).symm
    · next hr =>
      simp only [hr]
      exact (Outcome.next.inj h).symm

/-- Everything an operation can do when it answers a next state (an inversion lemma for `exec`). -/
theorem exec_next {i : Instr} {s s' : State} (h : exec i s = .next s') :
    (∃ o, s' = s.respond o) ∨
    (∃ v, i = .extRd ∧ s.core = .on v ∧ s' = s.debuggerHasRead.respond (.extValue v)) ∨
    (∃ v old, i = .extWr v ∧ s.core = .on old ∧ s.extAccess = .rw ∧
      s' = (s.writeRegister .debugger v).respond .extDone) ∨
    (∃ v o, s.core = .on v ∧ s.sysAccess = .allowed ∧ s' = s.processorIsRunning.respond o) ∨
    (∃ v old, s.core = .on old ∧ s.sysAccess = .allowed ∧
      ((∃ t x, i = .sys64Wr t x ∧ v = lowWord x) ∨ ∃ t, i = .sys32Wr t v) ∧
      s' = s.processorIsRunning.writeRegister .processor v) := by
  cases i with
  | extRd =>
    simp only [exec, execExtRd] at h
    split at h
    · exact .inl ⟨_, (Outcome.next.inj h).symm⟩
    · next v hc =>
      split at h
      · exact .inl ⟨_, (Outcome.next.inj h).symm⟩
      · exact .inr (.inl ⟨v, rfl, hc, (Outcome.next.inj h).symm⟩)
      · exact .inr (.inl ⟨v, rfl, hc, (Outcome.next.inj h).symm⟩)
  | extWr v =>
    simp only [exec, execExtWr, State.extAnswer] at h
    split at h
    · exact .inl ⟨_, (Outcome.next.inj h).symm⟩
    · exact .inl ⟨_, (Outcome.next.inj h).symm⟩
    · next ha =>
      split at ha
      · cases ha
      · next old hc =>
        exact .inr (.inr (.inl ⟨v, old, rfl, hc, ha, (Outcome.next.inj h).symm⟩))
  | sys64Rd t =>
    simp only [exec, execSys64Rd] at h
    obtain ⟨v, hy, hc, hgo⟩ := State.sysRegisterAccess_next h
    exact .inr (.inr (.inr (.inl ⟨v, _, hc, hy, (Outcome.next.inj hgo).symm⟩)))
  | sys64Wr t x =>
    simp only [exec, execSys64Wr] at h
    obtain ⟨v, hy, hc, hgo⟩ := State.sysRegisterAccess_next h
    exact .inr (.inr (.inr (.inr ⟨lowWord x, v, hc, hy, .inl ⟨t, x, rfl, rfl⟩,
      (Outcome.next.inj hgo).symm⟩)))
  | sys32Rd t =>
    simp only [exec, execSys32Rd] at h
    obtain ⟨v, hy, hc, hgo⟩ := State.sysRegisterAccess_next h
    exact .inr (.inr (.inr (.inl ⟨v, _, hc, hy, (Outcome.next.inj hgo).symm⟩)))
  | sys32Wr t x =>
    simp only [exec, execSys32Wr] at h
    obtain ⟨v, hy, hc, hgo⟩ := State.sysRegisterAccess_next h
    exact .inr (.inr (.inr (.inr ⟨x, v, hc, hy, .inr ⟨t, rfl⟩, (Outcome.next.inj hgo).symm⟩)))

end Sys2Proof.Machine
end

