-- ==== Sys2Proof/Laws/PerInstr.lean ====
section
/-! SUPPORT. Families of statements about every operation as syntax, one lemma per constructor. -/

/-- The encoder gives the operation a whole frame of sixteen bytes. -/
def Sys2Proof.Laws.WholeFrame.Statement (i : Sys2Proof.Instr) : Prop :=
  (Sys2Proof.encode i).length = 16

theorem Sys2Proof.Laws.WholeFrame.extRd : Sys2Proof.Laws.WholeFrame.Statement .extRd :=
  Sys2Proof.frameOf_length _

theorem Sys2Proof.Laws.WholeFrame.extWr (v : Sys2Proof.Word) :
    Sys2Proof.Laws.WholeFrame.Statement (.extWr v) :=
  Sys2Proof.frameOf_length _

theorem Sys2Proof.Laws.WholeFrame.sys64Rd (t : Nat) :
    Sys2Proof.Laws.WholeFrame.Statement (.sys64Rd t) :=
  Sys2Proof.frameOf_length _

theorem Sys2Proof.Laws.WholeFrame.sys64Wr (t : Nat) (x : Sys2Proof.Dword) :
    Sys2Proof.Laws.WholeFrame.Statement (.sys64Wr t x) :=
  Sys2Proof.frameOf_length _

theorem Sys2Proof.Laws.WholeFrame.sys32Rd (t : Nat) :
    Sys2Proof.Laws.WholeFrame.Statement (.sys32Rd t) :=
  Sys2Proof.frameOf_length _

theorem Sys2Proof.Laws.WholeFrame.sys32Wr (t : Nat) (x : Sys2Proof.Word) :
    Sys2Proof.Laws.WholeFrame.Statement (.sys32Wr t x) :=
  Sys2Proof.frameOf_length _
end

