-- ==== Sys2Proof/Laws/Safety.lean ====
section
/-! SUPPORT. The terms of the statements, each said once against the operation it speaks of. -/

namespace Sys2Proof.Machine

open Host

/-! What an arrival sees. -/

/-- The values the operation looks at are those the statements say may be seen. -/
theorem State.mem_visibleValues {s : State} {v u : Word} :
    u ∈ s.visibleValues v ↔ s.mayBeSeen v u := by
  unfold State.visibleValues State.mayBeSeen
  cases s.cfg.effectDelay <;> simp

/-- An arrival always sees at least one value. -/
theorem State.visibleValues_ne_nil (s : State) (v : Word) : s.visibleValues v ≠ [] :=
  List.ne_nil_of_mem (State.mem_visibleValues.2 (.inl rfl))

/-- The outcomes of an arrival named by level only are those at the targets whose pair is consulted. -/
theorem mem_el3Outcomes {c : Config} {u : Word} {k : Kind} {b : Bool} :
    b ∈ c.el3Outcomes u k ↔ ∃ t, pairConsulted c t ∧ c.catchEnabled u t k = b := by
  unfold Config.el3Outcomes pairConsulted
  cases c.el3PairRule <;> simp [or_and_right, exists_or, eq_comm]

/-- What presenting an arrival does while the domain is on. -/
theorem State.presentArrival_on {s : State} {v : Word} (h : s.core = .on v) (outcomes : Word → List Bool)
    (o : Output) :
    s.presentArrival outcomes o = .next { s.processorIsRunning with
      draws := s.draws + 1
      trace := s.trace ++ emission (resolve s.draws ((s.visibleValues v).flatMap outcomes)) o } := by
  simp only [State.presentArrival, h]
  cases resolve s.draws ((s.visibleValues v).flatMap outcomes) <;>
    simp [emission, State.respond, State.processorIsRunning]

/-! The fields of a state with its reserved bits cleared. -/

@[simp] theorem State.clearReserved_cfg (s : State) : s.clearReserved.cfg = s.cfg := rfl
@[simp] theorem State.clearReserved_core (s : State) : s.clearReserved.core = s.core.clearReserved s.cfg := rfl
@[simp] theorem State.clearReserved_extAccess (s : State) : s.clearReserved.extAccess = s.extAccess := rfl
@[simp] theorem State.clearReserved_sysAccess (s : State) : s.clearReserved.sysAccess = s.sysAccess := rfl
@[simp] theorem State.clearReserved_inputs (s : State) : s.clearReserved.inputs = s.inputs := rfl
@[simp] theorem State.clearReserved_trace (s : State) : s.clearReserved.trace = s.trace.map (Output.clearReserved s.cfg) := rfl
@[simp] theorem State.clearReserved_unsettled (s : State) : s.clearReserved.unsettled = s.unsettled.map (UnsettledWrite.clearReserved s.cfg) := rfl
@[simp] theorem State.clearReserved_peRunning (s : State) : s.clearReserved.peRunning = s.peRunning := rfl
@[simp] theorem State.clearReserved_draws (s : State) : s.clearReserved.draws = s.draws := rfl

/-! Clearing reserved bits commutes with what the record of order goes through. -/

theorem clearReserved_markRan (c : Config) (ws : List UnsettledWrite) :
    (ws.map UnsettledWrite.markRan).map (UnsettledWrite.clearReserved c) =
      (ws.map (UnsettledWrite.clearReserved c)).map UnsettledWrite.markRan := by
  simp [List.map_map, Function.comp_def, UnsettledWrite.clearReserved, UnsettledWrite.markRan]

theorem clearReserved_settledByRead (c : Config) (ws : List UnsettledWrite) :
    (settledByRead ws).map (UnsettledWrite.clearReserved c) =
      settledByRead (ws.map (UnsettledWrite.clearReserved c)) := by
  cases ws with
  | nil => rfl
  | cons w ws =>
    by_cases h : w.writer = .debugger ∧ w.peRan = false
    · simp [settledByRead, h, UnsettledWrite.clearReserved]
    · simp only [settledByRead, List.map_cons]
      rw [if_neg h, if_neg (by exact h), List.map_cons]

theorem clearReserved_settledBySync (c : Config) (ws : List UnsettledWrite) :
    (settledBySync ws).map (UnsettledWrite.clearReserved c) =
      settledBySync (ws.map (UnsettledWrite.clearReserved c)) := by
  simp [settledBySync, List.takeWhile_map, Function.comp_def, UnsettledWrite.clearReserved]

end Sys2Proof.Machine
end

