-- ==== Sys2Proof/Tests/Slice0.lean ====
section
/-! SUPPORT. The model's own tests. Expected results are those of spec/95_test_vectors.md (V-…, S…),
of the rules' own examples, or written out by hand from the rule named beside the test; and, in the last
part, for every statement with hypotheses, a concrete state and operands that meet them all. -/

namespace Sys2Proof.Tests

open Sys2Proof Sys2Proof.Machine Host

/-! ## Helpers -/

/-- The configuration of 95_test_vectors.md: every default, with RESET_ENTRY_CATCH true. -/
def vectorCfg : Config := { Config.proposed with
  resetEntryCatch := ResetEntryCatch.ofChoice fun _ => true }

/-- The same with RESET_ENTRY_CATCH false. -/
def noResetCfg : Config := { Config.proposed with
  resetEntryCatch := ResetEntryCatch.ofChoice fun _ => false }

/-- The same with RES0_KIND = STORAGE. -/
def storageCfg : Config := { vectorCfg with res0Kind := .storage }

/-- Every field `res0`. -/
def allRes0 : Variants :=
  { rtr3 := .res0, rte3 := .res0, rlr2 := .res0, rlr1 := .res0, rlr0 := .res0, rle2 := .res0,
    rle1 := .res0, nsr2 := .res0, nsr1 := .res0, nsr0 := .res0, sr3 := .res0, sr2 := .res0,
    sr1 := .res0, sr0 := .res0, nse2 := .res0, nse1 := .res0, se3 := .res0, se2 := .res0,
    se1 := .res0 }

/-- NSE2, NSE1, SE3, SE1 `coarse`, every other field `res0` (V-A14, V-Q15). -/
def coarseCfg : Config := { vectorCfg with
  variants := { allRes0 with nse2 := .coarse, nse1 := .coarse, se3 := .coarse, se1 := .coarse } }

/-- The seven Root and Realm fields `res0` (V-A13). -/
def noRealmCfg : Config := { vectorCfg with
  variants := { Variants.allFine with
    rtr3 := .res0, rte3 := .res0, rlr2 := .res0, rlr1 := .res0, rlr0 := .res0, rle2 := .res0,
    rle1 := .res0 } }

/-- NSR1 `res0`, NSE1 `fine` (V-Q19, V-Q20). -/
def noNsr1Cfg : Config := { vectorCfg with variants := { Variants.allFine with nsr1 := .res0 } }

/-- NSE1 `res0`, NSR1 `fine`. -/
def noNse1Cfg : Config := { vectorCfg with variants := { Variants.allFine with nse1 := .res0 } }

/-- A state that holds `v` under a configuration. -/
def holding (c : Config) (v : Word) : State := { State.reset with cfg := c, core := .on v }

/-- A state whose Core power domain is off. -/
def poweredOff (c : Config) : State := { State.reset with cfg := c, core := .off }

/-- The register and outputs after an outcome; none if it is no next state. -/
def seen : Outcome State Fault Refusal → Option (CoreDomain × List Output)
  | .next s => some (s.core, s.trace)
  | .fault _ => none
  | .refused _ => none

/-- Why an outcome is refused, if it is. -/
def whyRefused : Outcome State Fault Refusal → Option Refusal
  | .next _ => none
  | .fault _ => none
  | .refused r => some r

/-- One event on a state. -/
def stepOn (s : State) (i : Input) : Outcome State Fault Refusal := step { s with inputs := [i] }

/-- The request of an operation with an answer of RW and ALLOWED. -/
def request (i : Instr) : Input := .access .rw .allowed (encode i)

/-- What a function reads from the next state, if the outcome is one. -/
def after {α : Type} (f : State → α) : Outcome State Fault Refusal → Option α
  | .next s => some (f s)
  | .fault _ => none
  | .refused _ => none

/-- A state with events pending. -/
def pending (c : Config) (v : Word) (is : List Input) : State := { holding c v with inputs := is }

/-- All kinds. -/
def kinds : List Kind := [.entry, .resetEntry, .exceptionReturn]

/-- Every enabled event of a value, target by target in the page's order. -/
def enabled (c : Config) (v : Word) : List (Target × List Kind) :=
  (Target.all.map fun t => (t, kinds.filter fun k => c.catchEnabled v t k)).filter
    fun p => !p.2.isEmpty

/-! ## WellFormed: each check refuses an ill-formed term -/

theorem test_proposed_wf : Config.proposed.wf = true := by decide
theorem test_coarse_wf : coarseCfg.wf = true := by decide
theorem test_other_layout_wf : (LayoutHi.mk 1 1 1 6).wf = true := by decide
theorem test_layout_sum_refused : (LayoutHi.mk 3 4 1 2).wf = false := by decide
theorem test_layout_empty_cell_refused : (LayoutHi.mk 4 4 1 0).wf = false := by decide
theorem test_layout_empty_first_cell_refused : (LayoutHi.mk 0 7 1 1).wf = false := by decide
theorem test_layout_empty_second_cell_refused : (LayoutHi.mk 7 0 1 1).wf = false := by decide
theorem test_layout_empty_third_cell_refused : (LayoutHi.mk 3 5 0 1).wf = false := by decide
theorem test_coarse_se2_refused :
    Config.coarseWhereAllowed { coarseCfg with variants := { allRes0 with se2 := .coarse } } = false := by
  decide
theorem test_coarse_with_return_control_refused :
    Config.coarseStandsAlone { coarseCfg with
      variants := { allRes0 with nse1 := .coarse, nsr1 := .fine } } = false := by decide
theorem test_x32_refused : (Instr.sys64Rd 32).wf = false ∧ (Instr.sys64Wr 32 0).wf = false := by decide
theorem test_r16_refused : (Instr.sys32Rd 16).wf = false ∧ (Instr.sys32Wr 16 0).wf = false := by decide

/-! ## Decode: frames written out by hand (30_encoding.md R68; log 18) -/

/-- Offset 0x098, port 0, direction 0, width 0. -/
theorem test_decode_extRd :
    decode [0x98, 0, 0, 0, 0, 0, 0, 0, 0, 0, 0, 0, 0, 0, 0, 0] = .op .extRd := by decide
theorem test_decode_extWr :
    decode [0x98, 0, 0, 0, 0, 0, 0, 0, 0, 1, 0, 0, 0x6E, 0x7F, 0x76, 0x88] =
      .op (.extWr 0x88767F6E) := by decide
theorem test_decode_sys64Rd :
    decode [0, 0, 0, 0, 0, 0, 0, 0, 1, 0, 0, 31, 0, 0, 0, 0] = .op (.sys64Rd 31) := by decide
theorem test_decode_sys64Wr :
    decode [0x08, 0x08, 0, 0, 0xFF, 0xFF, 0xFF, 0xFF, 1, 1, 0, 0, 0, 0, 0, 0] =
      .op (.sys64Wr 0 0xFFFFFFFF00000808) := by decide
theorem test_decode_sys32Rd :
    decode [0, 0, 0, 0, 0, 0, 0, 0, 2, 0, 0, 15, 0, 0, 0, 0] = .op (.sys32Rd 15) := by decide
theorem test_decode_sys32Wr :
    decode [0x02, 0, 0, 0, 0, 0, 0, 0, 2, 1, 0, 1, 0, 0, 0, 0] = .op (.sys32Wr 1 2) := by decide
/-- The table's fixed bits: 0x098 in bits 11..0. -/
theorem test_table_word : decodeTableWord 16 0x098 = some .extRd := by decide
/-- Bit 12 set: another address with the same low twelve bits. -/
theorem test_full_address_compared : decodeTableWord 16 0x1098 = none := by decide
theorem test_short_frame : decode [0x98] = .rejected .malformedFrame := by decide
theorem test_unknown_port :
    decode [0x98, 0, 0, 0, 0, 0, 0, 0, 3, 0, 0, 0, 0, 0, 0, 0] = .rejected .malformedFrame := by decide
theorem test_unknown_direction :
    decode [0x98, 0, 0, 0, 0, 0, 0, 0, 0, 2, 0, 0, 0, 0, 0, 0] = .rejected .malformedFrame := by decide
theorem test_unknown_width :
    decode [0x98, 0, 0, 0, 0, 0, 0, 0, 0, 0, 4, 0, 0, 0, 0, 0] = .rejected .malformedFrame := by decide
theorem test_no_such_register_number :
    decode [0, 0, 0, 0, 0, 0, 0, 0, 2, 0, 0, 16, 0, 0, 0, 0] = .rejected .malformedFrame := by decide
theorem test_other_system_register :
    decode [0, 0, 0, 0, 0, 0, 0, 0, 1, 0, 1, 0, 0, 0, 0, 0] = .outside := by decide
/-- The edges of the four bytes: 0x094 misses, 0x095 overlaps, 0x09B overlaps, 0x09C misses. -/
theorem test_edges_of_the_register :
    (([0x094, 0x095, 0x098, 0x09B, 0x09C] : List Dword).map fun d =>
      decode (frameOf (.ext .read d .four 0))) =
      [.outside, .rejected .partialAccess, .op .extRd, .rejected .partialAccess, .outside] := by decide
/-- Eight bytes at 0x091 reach the register, at 0x090 they do not. -/
theorem test_wide_access_edges :
    (([0x090, 0x091] : List Dword).map fun d => decode (frameOf (.ext .write d .eight 0))) =
      [.outside, .rejected .partialAccess] := by decide

/-! ## The word (10_state.md section 2, 40_register_access.md R88) -/

theorem test_meaning_mask : Config.proposed.activeMask = 0x88767F6E := by decide
theorem test_wmask_storage : storageCfg.wmask = 0xFFFFFFFF := by decide
/-- V-A13 and V-A14. -/
theorem test_wmask_of_variants : noRealmCfg.wmask = 0x00007F6E ∧ coarseCfg.wmask = 0x0000006A := by decide
/-- Another layout the source admits: RTE3 at 29, RLE1 at 22. -/
theorem test_other_layout_positions :
    (LayoutHi.mk 1 1 1 6).pos .rte3 = 29 ∧ (LayoutHi.mk 1 1 1 6).pos .rle1 = 22 := by decide
theorem test_byte_lanes :
    [byteLane 0x88767F6E 0, byteLane 0x88767F6E 1, byteLane 0x88767F6E 2, byteLane 0x88767F6E 3] =
      [0x6E, 0x7F, 0x76, 0x88] := by decide

/-! ## The operations (V-A1 to V-A24) -/

/-- V-A3. -/
theorem test_extRd : seen (stepOn (holding vectorCfg 0x22) (request .extRd)) =
    some (.on 0x22, [.extValue 0x22]) := by decide
/-- V-A9 and V-A11. -/
theorem test_extRd_answers :
    seen (stepOn (holding vectorCfg 0x22) (.access .ro .allowed (encode .extRd))) =
      some (.on 0x22, [.extValue 0x22]) ∧
    seen (stepOn (holding vectorCfg 0x22) (.access .error .allowed (encode .extRd))) =
      some (.on 0x22, [.extError]) := by decide
/-- V-A4 and V-A5. -/
theorem test_extWr :
    seen (stepOn (holding vectorCfg 0x22) (request (.extWr 0xFFFFFFFF))) =
      some (.on 0x88767F6E, [.extDone]) ∧
    seen (stepOn (holding storageCfg 0x22) (request (.extWr 0xFFFFFFFF))) =
      some (.on 0xFFFFFFFF, [.extDone]) := by decide
/-- V-A8 and V-A10. -/
theorem test_extWr_answers :
    seen (stepOn (holding vectorCfg 0x22) (.access .ro .allowed (encode (.extWr 0x7700)))) =
      some (.on 0x22, [.extDone]) ∧
    seen (stepOn (holding vectorCfg 0x22) (.access .error .allowed (encode (.extWr 0x7700)))) =
      some (.on 0x22, [.extError]) := by decide
/-- V-A15. -/
theorem test_sys64Rd : seen (stepOn (holding vectorCfg 0x808) (request (.sys64Rd 5))) =
    some (.on 0x808, [.sys64Value 5 0x808]) := by decide
/-- V-A16. -/
theorem test_sys64Wr :
    seen (stepOn (holding vectorCfg 0) (request (.sys64Wr 0 0xFFFFFFFF00000808))) =
      some (.on 0x808, []) := by decide
/-- V-A20. -/
theorem test_sys64Wr_not_allowed :
    whyRefused (stepOn (holding vectorCfg 2) (.access .rw .notAllowed (encode (.sys64Wr 0 0)))) =
      some .sysAccessNotAllowed := by decide
/-- V-A17. -/
theorem test_sys32Rd : seen (stepOn (holding vectorCfg 0x7700) (request (.sys32Rd 1))) =
    some (.on 0x7700, [.sys32Value 1 0x7700]) := by decide
/-- V-A18. -/
theorem test_sys32Wr : seen (stepOn (holding vectorCfg 0x7700) (request (.sys32Wr 1 2))) =
    some (.on 2, []) := by decide
/-- V-RP6: 0x12345678 stores 0x00345668. -/
theorem test_sys32Wr_mask :
    seen (stepOn (holding vectorCfg 0) (request (.sys32Wr 1 0x12345678))) =
      some (.on 0x00345668, []) := by decide
/-- V-A21 and V-A22. -/
theorem test_partial_access_refused :
    whyRefused (stepOn (holding vectorCfg 2) (.access .rw .allowed (frameOf (.ext .read 0x98 .two 0)))) =
      some .partialAccess ∧
    whyRefused (stepOn (holding vectorCfg 2) (.access .rw .allowed (frameOf (.ext .write 0x9A .four 0)))) =
      some .partialAccess := by decide
/-- V-A23. -/
theorem test_other_offset_passed :
    seen (stepOn (holding vectorCfg 2) (.access .rw .allowed (frameOf (.ext .write 0x9C .four 0)))) =
      some (.on 2, [.passed (frameOf (.ext .write 0x9C .four 0))]) := by decide
/-- V-A24. -/
theorem test_read_with_domain_off :
    seen (stepOn (poweredOff vectorCfg) (request .extRd)) = some (.off, [.extError]) := by decide
theorem test_malformed_frame_refused :
    whyRefused (stepOn (holding vectorCfg 2) (.access .rw .allowed [])) = some .malformedFrame := by decide
theorem test_fetch_word_runs_first :
    seen (step (State.reset.withFetchWord 16 0x098)) = some (.on 0, [.extValue 0]) := by decide

/-! ## The query (V-P, V-Z, V-B, V-Q) -/

/-- V-P2 to V-P32 (the rows whose value is not 0): the value, its target, the enabled kinds. -/
def pairVectors : List (Word × Target × List Kind) :=
  [(0x08000000, .rootEL3, kinds), (0x80000000, .rootEL3, [.exceptionReturn]),
   (0x88000000, .rootEL3, [.entry, .resetEntry]),
   (0x00040000, .realmEL2, [.entry, .exceptionReturn]), (0x00400000, .realmEL2, [.exceptionReturn]),
   (0x00440000, .realmEL2, [.entry]),
   (0x00020000, .realmEL1, [.entry, .exceptionReturn]), (0x00200000, .realmEL1, [.exceptionReturn]),
   (0x00220000, .realmEL1, [.entry])] ++
  [(0x00000040, .nonSecureEL2, kinds), (0x00004000, .nonSecureEL2, [.exceptionReturn]),
   (0x00004040, .nonSecureEL2, [.entry, .resetEntry]),
   (0x00000020, .nonSecureEL1, kinds), (0x00002000, .nonSecureEL1, [.exceptionReturn]),
   (0x00002020, .nonSecureEL1, [.entry, .resetEntry]),
   (0x00000008, .el3, kinds), (0x00000800, .el3, [.exceptionReturn]),
   (0x00000808, .el3, [.entry, .resetEntry])] ++
  [(0x00000004, .secureEL2, kinds), (0x00000400, .secureEL2, [.exceptionReturn]),
   (0x00000404, .secureEL2, [.entry, .resetEntry]),
   (0x00000002, .secureEL1, kinds), (0x00000200, .secureEL1, [.exceptionReturn]),
   (0x00000202, .secureEL1, [.entry, .resetEntry]),
   (0x00100000, .realmEL0, [.exceptionReturn]), (0x00001000, .nonSecureEL0, [.exceptionReturn]),
   (0x00000100, .secureEL0, [.exceptionReturn])]

/-- V-P and V-Z: each value enables those kinds at that target and nothing at any other. -/
theorem test_pair_vectors :
    (pairVectors.all fun p => enabled vectorCfg p.1 == [(p.2.1, p.2.2)]) = true := by decide +kernel
/-- V-B of the thirteen reserved bits: nothing, even where they are stored. -/
theorem test_reserved_bits_mean_nothing :
    (([30, 29, 28, 26, 25, 24, 23, 19, 16, 15, 7, 4, 0] : List Nat).all fun n =>
      enabled storageCfg (bitMask n) == []) = true := by decide +kernel
/-- V-Q2. -/
theorem test_all_meaning_bits : enabled vectorCfg 0x88767F6E =
    [(.rootEL3, [.entry, .resetEntry]), (.realmEL2, [.entry]), (.realmEL1, [.entry]),
     (.realmEL0, [.exceptionReturn]), (.nonSecureEL2, [.entry, .resetEntry]),
     (.nonSecureEL1, [.entry, .resetEntry]), (.nonSecureEL0, [.exceptionReturn]),
     (.el3, [.entry, .resetEntry]), (.secureEL2, [.entry, .resetEntry]),
     (.secureEL1, [.entry, .resetEntry]), (.secureEL0, [.exceptionReturn])] := by decide +kernel
/-- V-Q13. -/
theorem test_no_reset_entry_catch : enabled noResetCfg 0x22 =
    [(.nonSecureEL1, [.entry, .exceptionReturn]), (.secureEL1, [.entry, .exceptionReturn])] := by
  decide +kernel
/-- V-Q15, V-Q16 and V-Q17. -/
theorem test_coarse_kinds :
    enabled coarseCfg 0x6A =
      [(.nonSecureEL2, kinds), (.nonSecureEL1, kinds), (.el3, kinds), (.secureEL1, kinds)] ∧
    enabled { coarseCfg with coarseKinds := ⟨true, true, false⟩ } 0x6A =
      [(.nonSecureEL2, [.entry, .resetEntry]), (.nonSecureEL1, [.entry, .resetEntry]),
       (.el3, [.entry, .resetEntry]), (.secureEL1, [.entry, .resetEntry])] ∧
    enabled { coarseCfg with coarseKinds := ⟨true, false, false⟩ } 0x6A =
      [(.nonSecureEL2, [.entry]), (.nonSecureEL1, [.entry]), (.el3, [.entry]),
       (.secureEL1, [.entry])] := by decide +kernel
/-- V-Q18: a stored `res0` field means nothing. -/
theorem test_stored_res0_field : enabled { coarseCfg with res0Kind := .storage } 0x4 = [] := by
  decide +kernel
/-- V-Q19 and V-Q20. -/
theorem test_res0_return_control :
    enabled noNsr1Cfg 0x20 = [(.nonSecureEL1, kinds)] ∧
    enabled { noNsr1Cfg with res0Kind := .storage } 0x2020 = [(.nonSecureEL1, kinds)] := by
  decide +kernel

/-! ## Arrivals, resets, power -/

/-- 41_exception_catch_control.md R146's example, and program 1 step 4. -/
theorem test_arrive :
    seen (stepOn (holding vectorCfg 0x2000) (.arrive .nonSecureEL1 .exceptionReturn)) =
      some (.on 0x2000, [.exceptionCatch .nonSecureEL1 .exceptionReturn]) ∧
    seen (stepOn (holding vectorCfg 0x2000) (.arrive .nonSecureEL1 .entry)) =
      some (.on 0x2000, []) := by decide
/-- V-Q21: both pairs enable the entry, so there is no draw. -/
theorem test_arriveAtLevel3_agree :
    seen (stepOn (holding vectorCfg 0x88000808) (.arriveAtLevel3 .entry)) =
      some (.on 0x88000808, [.exceptionCatchAtLevel3 .entry]) := by decide
/-- V-Q22: only EL3's pair enables the return, so the outcome is the free draw. -/
theorem test_arriveAtLevel3_differ :
    resolve 0 (vectorCfg.el3Outcomes 0x8 .exceptionReturn) = Config.freeDraw 0 := rfl
/-- Program 5 (a): the old value enables the return, the new one does not. -/
theorem test_racing_write :
    resolve 0 ([0x2020, 0x20].map fun v => vectorCfg.catchEnabled v .nonSecureEL1 .exceptionReturn) =
      Config.freeDraw 0 := rfl
/-- V-RP1 and V-RP2. -/
theorem test_resets :
    seen (stepOn (holding vectorCfg 0x6666) (.reset .cold)) = some (.on 0, []) ∧
    seen (stepOn (holding vectorCfg 0x8) (.reset .warm)) = some (.on 0x8, []) := by decide
/-- V-RP4: a Realm level has no reset entry. -/
theorem test_realm_reset_entry :
    seen (stepOn (holding vectorCfg 0x00040000) (.arrive .realmEL2 .resetEntry)) =
      some (.on 0x00040000, []) := by decide
/-- A reset value other than 0 reaches the meaning bits only. -/
theorem test_reset_value :
    seen (stepOn (holding { storageCfg with resetValue := 0xFFFFFFFF } 0) (.reset .cold)) =
      some (.on 0x88767F6E, []) := by decide
/-- V-RP5. -/
theorem test_power :
    seen (stepOn (holding vectorCfg 0x22) .powerOff) = some (.off, []) ∧
    seen (stepOn (poweredOff vectorCfg) .powerOn) = some (.on 0, []) := by decide
theorem test_arrival_with_domain_off :
    whyRefused (stepOn (poweredOff vectorCfg) (.arrive .el3 .entry)) = some .arrivalCoreOff := by decide
/-- Read back with the processing element stopped: settled; once it has run: not. -/
theorem test_read_back_orders :
    settledByRead [⟨0, .debugger, false⟩, ⟨4, .processor, true⟩] = [] ∧
    settledByRead [⟨0, .debugger, true⟩] = [⟨0, .debugger, true⟩] ∧
    settledByRead [⟨0, .processor, false⟩] = [⟨0, .processor, false⟩] := by decide
/-- A synchronisation settles the processor's newest write and all before it, no later one. -/
theorem test_synchronisation_orders :
    settledBySync [⟨1, .debugger, true⟩, ⟨2, .processor, true⟩, ⟨3, .debugger, true⟩] =
      [⟨1, .debugger, true⟩] := by decide
/-- 70_reset_and_hazards.md R186: a rewrite of the value already held, read back with the processing element
stopped, settles the older write too; 30_encoding.md R70: the reserved bit 15, stored, changes nothing. -/
theorem test_rewrite_is_read_back :
    ([(0x2020 : Word), 0xA020].map fun v =>
      after (fun s => settledByRead s.unsettled)
        (step { pending storageCfg 0x2020 [request (.extWr v)] with
          peRunning := false, unsettled := [⟨0x20, .debugger, true⟩] })) = [some [], some []] := by decide
theorem test_idle : seen (step (holding vectorCfg 0x22)) = some (.on 0x22, []) := by decide

/-! ## The hypotheses of the statements can be met -/

theorem witness_DecodeReadsBackEncoding :
    (Instr.sys64Wr 31 0xFFFFFFFFFFFFFFFF).wf = true ∧ (Instr.sys32Rd 15).wf = true ∧
    Instr.extRd.wf = true := by decide
theorem witness_ExternalRequestsSortByAddressAndWidth :
    (AccessWidth.four = .four ∧ (0x098 : Dword).toNat = 0x098) ∧
    overlapsBadly 0x09B .one ∧ overlapsBadly 0x091 .eight ∧
    missesRegister 0x09C .four ∧ missesRegister 0x094 .four := by
  unfold overlapsBadly missesRegister
  decide
theorem witness_layouts :
    LayoutHi.proposed.wf = true ∧ (LayoutHi.mk 1 1 1 6).wf = true ∧ (LayoutHi.mk 6 1 1 1).wf = true := by
  decide
/-- AssembledFieldsReadBack, second clause, and WriteMaskBits: bit 30 is no field. -/
theorem witness_bit_without_field :
    vectorCfg.layoutHi.wf = true ∧ (∀ f ∈ FieldName.all, vectorCfg.layoutHi.pos f ≠ 30) ∧ 30 < 32 := by
  decide
theorem witness_DefaultWriteMasks :
    vectorCfg.layoutHi = LayoutHi.proposed ∧ vectorCfg.variants = Variants.allFine ∧
    vectorCfg.res0Kind = .razWi ∧ storageCfg.res0Kind = .storage ∧
    storageCfg.layoutHi = LayoutHi.proposed ∧ storageCfg.variants = Variants.allFine := by decide
/-- ExternalReadReturnsTheWord and ExternalWriteReplacesTheWord, clause by clause. -/
theorem witness_external_accesses :
    ((holding vectorCfg 0x22).core = .on 0x22 ∧ (holding vectorCfg 0x22).extAccess = .rw ∧
      (holding vectorCfg 0x22).extAccess ≠ .error) ∧
    ({ holding vectorCfg 0x22 with extAccess := .ro }.core = .on 0x22 ∧
      { holding vectorCfg 0x22 with extAccess := .ro }.extAccess = .ro) ∧
    (poweredOff vectorCfg).core = .off ∧
    { holding vectorCfg 0x22 with extAccess := .error }.extAccess = .error ∧
    (pending vectorCfg 0 [.access .rw .allowed (frameOf (.ext .read 0x98 .two 0))]).inputs =
      .access .rw .allowed (frameOf (.ext .read 0x98 .two 0)) :: [] ∧
    overlapsBadly 0x98 .two := by
  unfold overlapsBadly
  decide
/-- The four System register statements, each clause; and SysAccessWithDomainOffIsRefused. -/
theorem witness_system_register_accesses :
    ((holding vectorCfg 0x22).sysAccess = .allowed ∧ (holding vectorCfg 0x22).core = .on 0x22) ∧
    { holding vectorCfg 0x22 with sysAccess := .notAllowed }.sysAccess = .notAllowed ∧
    ((poweredOff vectorCfg).sysAccess = .allowed ∧ (poweredOff vectorCfg).core = .off) := by decide
theorem witness_OperationsChangeOnlyTheRegister :
    ∃ s', exec (.extWr 0x22) (holding vectorCfg 0) = .next s' ∧ writesRegister .extRd = false :=
  ⟨_, rfl, rfl⟩
/-- ViewsShareOneStorage and LastWriterWins. -/
theorem witness_two_operations :
    (holding vectorCfg 0).core = .on 0 ∧ (holding vectorCfg 0).extAccess = .rw ∧
    (holding vectorCfg 0).sysAccess = .allowed ∧ writesRegister (.sys64Wr 0 0x808) = true ∧
    writesRegister .extRd = false ∧ writesRegister (.extWr 2) = true := by decide
theorem witness_SameValueWrittenTwiceChangesNothingMore :
    ∃ s1 s2, writesRegister (.extWr 0x22) = true ∧ writesRegister (.sys32Wr 0 0x22) = true ∧
      writtenValue (.sys32Wr 0 0x22) = writtenValue (.extWr 0x22) ∧
      (holding vectorCfg 0).extAccess = .rw ∧
      exec (.extWr 0x22) (holding vectorCfg 0) = .next s1 ∧ exec (.sys32Wr 0 0x22) s1 = .next s2 ∧
      s1.core = .on 0x22 :=
  ⟨_, _, rfl, rfl, rfl, rfl, rfl, rfl, by decide⟩
/-- WrittenBitsReadBack: bit 31 is a field with a meaning, bit 15 a RES0 field, bit 30 no field. -/
theorem witness_WrittenBitsReadBack :
    (∃ s' u, vectorCfg.layoutHi.wf = true ∧ writesRegister (.extWr 0xFFFFFFFF) = true ∧
      (holding vectorCfg 0).core = .on 0 ∧ (holding vectorCfg 0).extAccess = .rw ∧
      exec (.extWr 0xFFFFFFFF) (holding vectorCfg 0) = .next s' ∧ s'.core = .on u) ∧
    (vectorCfg.variant .rtr3 ≠ .res0 ∧ vectorCfg.layoutHi.pos .rtr3 = 31) ∧
    (∀ f ∈ FieldName.all, vectorCfg.layoutHi.pos f = 15 → vectorCfg.variant f = .res0) ∧
    (∀ f ∈ FieldName.all, vectorCfg.layoutHi.pos f = 30 → vectorCfg.variant f = .res0) :=
  ⟨⟨_, _, rfl, rfl, rfl, rfl, rfl, rfl⟩, by decide, by decide, by decide⟩
theorem witness_UpperHalfOfXtIsNotLookedAt :
    (0xFFFFFFFF00000808 : Dword).extractLsb' 0 32 = (0x808 : Dword).extractLsb' 0 32 ∧
    (0xFFFFFFFF00000808 : Dword) ≠ 0x808 := by decide
/-- PairsThatNameResetEntry, RealmPairs and ReturnOnlyTargets: fine controls, each row's bits, and the
example values' premises. -/
theorem witness_pairs :
    (∀ t ∈ Target.all, vectorCfg.variant t.returnControl = .fine ∧
      (t.entryControl.all fun f => vectorCfg.variant f == .fine) = true) ∧
    vectorCfg.layoutHi = LayoutHi.proposed ∧ vectorCfg.variants = Variants.allFine ∧
    (0x08000000 : Word).getLsbD 27 = true ∧ (0x08000000 : Word).getLsbD 31 = false ∧
    (0x88000000 : Word).getLsbD 27 = true ∧ (0x88000000 : Word).getLsbD 31 = true ∧
    (0x80000000 : Word).getLsbD 27 = false ∧ (0x80000000 : Word).getLsbD 31 = true := by decide
theorem witness_CoarseControls :
    coarseCfg.variant .nse2 = .coarse ∧ coarseCfg.variant .nse1 = .coarse ∧
    coarseCfg.variant .se3 = .coarse ∧ coarseCfg.variant .se1 = .coarse ∧
    (0x6A : Word).getLsbD 6 = true ∧ (0x6A : Word).getLsbD 5 = true ∧ (0x6A : Word).getLsbD 3 = true ∧
    (0x6A : Word).getLsbD 1 = true ∧ (0x04 : Word).getLsbD 6 = false := by decide
/-- TargetsAreIndependent: two values that differ elsewhere agree on the fields of EL3. -/
theorem witness_TargetsAreIndependent :
    (∀ f ∈ FieldName.all, (Target.el3.entryControl = some f ∨ Target.el3.returnControl = f) →
      vectorCfg.variant f ≠ .res0 →
      (0x808 : Word).getLsbD (vectorCfg.layoutHi.pos f) =
        (0x88000808 : Word).getLsbD (vectorCfg.layoutHi.pos f)) := by decide
/-- Res0ControlsReadAsZero, each clause. -/
theorem witness_Res0ControlsReadAsZero :
    (Target.rootEL3.entryControl = some .rte3 ∧ noRealmCfg.variant Target.rootEL3.returnControl = .res0 ∧
      noRealmCfg.variant .rte3 = .res0) ∧
    (Target.nonSecureEL1.entryControl = some .nse1 ∧
      noNsr1Cfg.variant Target.nonSecureEL1.returnControl = .res0 ∧ noNsr1Cfg.variant .nse1 = .fine) ∧
    (noNse1Cfg.variant .nse1 = .res0 ∧ noNse1Cfg.variant Target.nonSecureEL1.returnControl = .fine) ∧
    (Target.realmEL0.entryControl = none ∧ noRealmCfg.variant Target.realmEL0.returnControl = .res0) := by
  decide
/-- 41_exception_catch_control.md R139 with E(t) read as 0: only the return is left. -/
theorem test_res0_entry_control : enabled noNse1Cfg 0x2020 = [(.nonSecureEL1, [.exceptionReturn])] := by
  decide +kernel
/-- ReservedBitsOfAWriteChangeNoBehaviour and ReservedBitsChangeNoBehaviour: two states, and two written
words, alike but for the reserved bit 15. -/
theorem witness_reserved_bits :
    (holding storageCfg 0x2020).clearReserved = (holding storageCfg 0xA020).clearReserved ∧
    holding storageCfg 0x2020 ≠ holding storageCfg 0xA020 ∧
    meaningBits storageCfg 0x2020 = meaningBits storageCfg 0xA020 ∧
    meaningBits storageCfg ((0x2020 : Dword).extractLsb' 0 32) =
      meaningBits storageCfg ((0xFFFFFFFF0000A020 : Dword).extractLsb' 0 32) := by decide
/-- ResetEntryNeedsTheImplementationsChoice, at each of the six targets. -/
theorem witness_ResetEntryNeedsTheImplementationsChoice :
    (([(0x08000000, .rootEL3), (0x40, .nonSecureEL2), (0x20, .nonSecureEL1), (0x8, .el3),
      (0x4, .secureEL2), (0x2, .secureEL1)] : List (Word × Target)).all fun p =>
        vectorCfg.catchEnabled p.1 p.2 .resetEntry) = true := by decide
/-- SettledArrivalIsDecidedByTheRegister, with either reason to be settled; RacingArrivalAdmitsOldAndNew
with agreeing and with differing values. -/
theorem witness_arrivals :
    ((pending vectorCfg 0x2020 [.arrive .nonSecureEL1 .entry]).inputs =
        .arrive .nonSecureEL1 .entry :: [] ∧
      (pending vectorCfg 0x2020 [.arrive .nonSecureEL1 .entry]).core = .on 0x2020 ∧
      (pending vectorCfg 0x2020 [.arrive .nonSecureEL1 .entry]).settled ∧
      (pending vectorCfg 0x2020 [.arrive .nonSecureEL1 .entry]).cfg.effectDelay = .unstated) ∧
    State.settled { holding { vectorCfg with effectDelay := .atOnce } 0x2020 with
      unsettled := [⟨0x20, .debugger, true⟩] } ∧
    (vectorCfg.catchEnabled 0x2020 .nonSecureEL1 .entry = true ∧
      ∀ w ∈ ([⟨0x20, .debugger, true⟩] : List UnsettledWrite),
        vectorCfg.catchEnabled w.before .nonSecureEL1 .entry = true) ∧
    (vectorCfg.catchEnabled 0x2020 .secureEL1 .entry = false ∧
      ∀ w ∈ ([⟨0x20, .debugger, true⟩] : List UnsettledWrite),
        vectorCfg.catchEnabled w.before .secureEL1 .entry = false) ∧
    (∃ w ∈ ([⟨0x20, .debugger, true⟩] : List UnsettledWrite),
      vectorCfg.catchEnabled w.before .nonSecureEL1 .exceptionReturn ≠
        vectorCfg.catchEnabled 0x2020 .nonSecureEL1 .exceptionReturn) :=
  ⟨⟨rfl, rfl, .inr rfl, rfl⟩, .inl rfl, by decide, by decide, by decide⟩
theorem witness_NoEventUnlessEnabled :
    ∃ s', (pending vectorCfg 0x8 [.arrive .el3 .entry]).inputs = .arrive .el3 .entry :: [] ∧
      (pending vectorCfg 0x8 [.arrive .el3 .entry]).core = .on 0x8 ∧
      step (pending vectorCfg 0x8 [.arrive .el3 .entry]) = .next s' ∧
      s'.trace ≠ (pending vectorCfg 0x8 [.arrive .el3 .entry]).trace :=
  ⟨_, rfl, rfl, rfl, by decide⟩
/-- The same at level 3. -/
theorem witness_NoEventUnlessEnabled_level3 :
    ∃ s', (pending vectorCfg 0x88000808 [.arriveAtLevel3 .entry]).inputs = .arriveAtLevel3 .entry :: [] ∧
      (pending vectorCfg 0x88000808 [.arriveAtLevel3 .entry]).core = .on 0x88000808 ∧
      step (pending vectorCfg 0x88000808 [.arriveAtLevel3 .entry]) = .next s' ∧
      s'.trace ≠ (pending vectorCfg 0x88000808 [.arriveAtLevel3 .entry]).trace :=
  ⟨_, rfl, rfl, rfl, by decide⟩
/-- RacingLevel3ArrivalAdmitsEveryOutcome, with differing outcomes. -/
theorem witness_RacingLevel3ArrivalAdmitsEveryOutcome :
    (pending vectorCfg 0x8 [.arriveAtLevel3 .entry]).inputs = .arriveAtLevel3 .entry :: [] ∧
    (pending vectorCfg 0x8 [.arriveAtLevel3 .entry]).core = .on 0x8 ∧
    (pending vectorCfg 0x8 [.arriveAtLevel3 .entry]).mayBeSeen 0x8 0x8 ∧
    pairConsulted vectorCfg .el3 ∧ pairConsulted vectorCfg .rootEL3 ∧
    vectorCfg.catchEnabled 0x8 .el3 .entry = true ∧ vectorCfg.catchEnabled 0x8 .rootEL3 .entry = false :=
  ⟨rfl, rfl, .inl rfl, .inl ⟨rfl, by decide⟩, .inr ⟨rfl, by decide⟩, by decide, by decide⟩
theorem witness_Level3ArrivalConsultsThePairRule :
    (pending vectorCfg 0x8 [.arriveAtLevel3 .entry]).inputs = .arriveAtLevel3 .entry :: [] ∧
    (pending vectorCfg 0x8 [.arriveAtLevel3 .entry]).core = .on 0x8 ∧
    (pending vectorCfg 0x8 [.arriveAtLevel3 .entry]).settled := ⟨rfl, rfl, .inr rfl⟩
theorem witness_ArrivalWithDomainOffIsRefused :
    { poweredOff vectorCfg with inputs := [.arrive .el3 .entry] }.core = .off ∧
    { poweredOff vectorCfg with inputs := [.arrive .el3 .entry] }.inputs = .arrive .el3 .entry :: [] ∧
    { poweredOff vectorCfg with inputs := [.arriveAtLevel3 .entry] }.inputs =
      .arriveAtLevel3 .entry :: [] := by decide
theorem witness_ReadBackOrdersTheDebuggersWrite :
    { pending vectorCfg 0x20 [request (.extWr 0x2020), request .extRd, .arrive .nonSecureEL1 .entry] with
      peRunning := false }.core = .on 0x20 ∧
    { pending vectorCfg 0x20 [request (.extWr 0x2020), request .extRd, .arrive .nonSecureEL1 .entry] with
      peRunning := false }.peRunning = false ∧
    ExtAccess.rw ≠ .error ∧
    decode (encode (.extWr 0x2020)) = .op (.extWr 0x2020) ∧ decode (encode .extRd) = .op .extRd ∧
    { pending vectorCfg 0x20 [request (.extWr 0x2020), request .extRd, .arrive .nonSecureEL1 .entry] with
      peRunning := false }.inputs =
      .access .rw .allowed (encode (.extWr 0x2020)) :: .access .rw .allowed (encode .extRd) ::
        .arrive .nonSecureEL1 .entry :: [] := by decide
theorem witness_SynchronisationOrdersTheProcessorsWrite :
    (pending vectorCfg 0x20 [request (.sys64Wr 0 0x2020), .synchronised,
      .arrive .nonSecureEL1 .entry]).core = .on 0x20 ∧
    decode (encode (.sys64Wr 0 0x2020)) = .op (.sys64Wr 0 0x2020) ∧
    decode (encode (.sys32Wr 0 0x2020)) = .op (.sys32Wr 0 0x2020) ∧
    (pending vectorCfg 0x20 [request (.sys64Wr 0 0x2020), .synchronised,
      .arrive .nonSecureEL1 .entry]).inputs =
      .access .rw .allowed (encode (.sys64Wr 0 0x2020)) :: .synchronised ::
        .arrive .nonSecureEL1 .entry :: [] := by decide
/-- ReadBackSettlesOnlyTheDebuggersOwnWrite: a record for either clause. -/
theorem witness_ReadBackSettlesOnlyTheDebuggersOwnWrite :
    (∃ s', exec .extRd { holding vectorCfg 0x2020 with unsettled := [⟨0x20, .debugger, false⟩] } = .next s' ∧
      (holding vectorCfg 0x2020).core ≠ .off ∧ (holding vectorCfg 0x2020).extAccess ≠ .error) ∧
    ∃ s', exec .extRd { holding vectorCfg 0x2020 with unsettled := [⟨0x20, .processor, true⟩] } = .next s' :=
  ⟨⟨_, rfl, by decide, by decide⟩, _, rfl⟩
/-- SynchronisationSettlesUpToTheProcessorsWrite: a record for either clause. -/
theorem witness_SynchronisationSettlesUpToTheProcessorsWrite :
    (pending vectorCfg 0x2020 [.synchronised]).inputs = .synchronised :: [] ∧
    { pending vectorCfg 0x2020 [.synchronised] with
      unsettled := [⟨1, .debugger, true⟩, ⟨2, .processor, true⟩, ⟨4, .debugger, true⟩] }.unsettled =
      [⟨1, .debugger, true⟩] ++ ⟨2, .processor, true⟩ :: [⟨4, .debugger, true⟩] ∧
    (∀ u ∈ ([⟨1, .debugger, true⟩] : List UnsettledWrite), u.writer = .debugger) := by decide
/-- The three statements of no ordering: the old and the new value differ for the arrival. -/
theorem witness_no_ordering :
    (holding vectorCfg 0x20).core = .on 0x20 ∧ vectorCfg.effectDelay = .unstated ∧
    ExtAccess.rw ≠ .error ∧ decode (encode (.extWr 0x2020)) = .op (.extWr 0x2020) ∧
    decode (encode .extRd) = .op .extRd ∧ decode (encode (.sys64Wr 0 0x2020)) = .op (.sys64Wr 0 0x2020) ∧
    decode (encode (.sys32Wr 0 0x2020)) = .op (.sys32Wr 0 0x2020) ∧
    vectorCfg.catchEnabled 0x20 .nonSecureEL1 .exceptionReturn ≠
      vectorCfg.catchEnabled (0x2020 &&& vectorCfg.wmask) .nonSecureEL1 .exceptionReturn ∧
    writtenValue (.sys64Wr 0 0x2020) = 0x2020 ∧ writtenValue (.sys32Wr 0 0x2020) = 0x2020 := by decide
theorem witness_RunningNoticesChangeOnlyTheRecord :
    (pending vectorCfg 0x20 [.processorRuns true]).inputs = .processorRuns true :: [] ∧
    (pending vectorCfg 0x20 [.processorRuns false]).inputs = .processorRuns false :: [] := by decide
/-- WarmResetKeepsTheCatchOfItsResetEntry at each of its targets, fine, and at a coarse one. -/
theorem witness_reset_entry_targets :
    (∀ p ∈ resetEntryTargets vectorCfg, vectorCfg.variant p.2.1 ≠ .res0 ∧
      (0x0800006E : Word).getLsbD (vectorCfg.layoutHi.pos p.2.1) = true) ∧
    (.el3, .se3, true) ∈ resetEntryTargets coarseCfg ∧ coarseCfg.variant .se3 ≠ .res0 ∧
    (0x6A : Word).getLsbD (coarseCfg.layoutHi.pos .se3) = true := by decide
/-- ResetsOfTheRegister, NothingIsCaughtAfterAColdReset and WarmResetKeepsTheCatchOfItsResetEntry. -/
theorem witness_resets :
    (vectorCfg.resetsOnKind .cold = true ∧ vectorCfg.resetsOnKind .warm = false ∧
      vectorCfg.resetsOn.cold = true ∧ vectorCfg.resetsOn.warm = false ∧ vectorCfg.resetValue = 0#32) ∧
    ((pending vectorCfg 0x8 [.reset .cold, .arrive .el3 .resetEntry]).inputs =
        .reset .cold :: .arrive .el3 .resetEntry :: [] ∧
      (pending vectorCfg 0x8 [.reset .cold, .arrive .el3 .resetEntry]).core = .on 0x8 ∧
      (pending vectorCfg 0x8 [.reset .cold, .arriveAtLevel3 .resetEntry]).inputs =
        .reset .cold :: .arriveAtLevel3 .resetEntry :: []) ∧
    ((pending vectorCfg 0x8 [.reset .warm, .arrive .el3 .resetEntry]).inputs =
        .reset .warm :: .arrive .el3 .resetEntry :: [] ∧
      (pending vectorCfg 0x8 [.reset .warm, .arrive .el3 .resetEntry]).core = .on 0x8 ∧
      (pending vectorCfg 0x8 [.reset .warm, .arrive .el3 .resetEntry]).settled ∧
      vectorCfg.variant .se3 = .fine ∧ (0x8 : Word).getLsbD 3 = true) :=
  ⟨by decide, by decide, rfl, rfl, .inr rfl, by decide, by decide⟩
theorem witness_PowerCycleLosesTheValue :
    (Instr.extRd = .extRd ∨ ∃ v, Instr.extRd = .extWr v) ∧ decode (encode .extRd) = .op .extRd ∧
    (pending vectorCfg 0x22 [.powerOff, request .extRd, .powerOn]).inputs =
      .powerOff :: .access .rw .allowed (encode .extRd) :: .powerOn :: [] :=
  ⟨.inl rfl, by decide, rfl⟩
theorem witness_StepRunsTheDecodedOperation :
    (pending vectorCfg 0x22 [request .extRd]).inputs = .access .rw .allowed (encode .extRd) :: [] ∧
    decode (encode .extRd) = .op .extRd := by decide
theorem witness_OtherAccessesArePassedOn :
    missesRegister 0x09C .four ∧ missesRegister 0x094 .four ∧
    (pending vectorCfg 0x22 [.access .rw .allowed (frameOf (.ext .read 0x9C .four 0))]).inputs =
      .access .rw .allowed (frameOf (.ext .read 0x9C .four 0)) :: [] ∧
    decode (frameOf (.ext .read 0x9C .four 0)) = .outside := by
  unfold missesRegister
  decide
/-- EveryStepKeepsTheStateLegal, NoStepChangesTheConfiguration and EveryRunStaysLegal. -/
theorem witness_legal_step :
    ∃ s', (pending vectorCfg 0x22 [request (.extWr 0xFFFFFFFF)]).legal = true ∧
      step (pending vectorCfg 0x22 [request (.extWr 0xFFFFFFFF)]) = .next s' ∧
      Sys2Proof.core.run 1 (pending vectorCfg 0x22 [request (.extWr 0xFFFFFFFF)]) = .next s' :=
  ⟨_, by decide, rfl, rfl⟩
theorem witness_OnlyWritesResetsAndPowerChangeTheRegister :
    ∃ s', step (pending vectorCfg 0x22 [request (.extWr 0xFFFFFFFF)]) = .next s' ∧
      s'.core ≠ (pending vectorCfg 0x22 [request (.extWr 0xFFFFFFFF)]).core :=
  ⟨_, rfl, by decide⟩
theorem witness_StepsCompleteWithTheDomainOn :
    (pending vectorCfg 0x22 [request (.sys32Wr 0 2)]).core = .on 0x22 ∧
    decode (encode (.sys32Wr 0 2)) = .op (.sys32Wr 0 2) := by decide

end Sys2Proof.Tests
end

/-! SUPPORT. The word, bit by bit: where the fields stand, and which bits the two masks have. -/

namespace Sys2Proof

theorem FieldName.mem_all (f : FieldName) : f ∈ FieldName.all := by
  cases f <;> simp [FieldName.all]

theorem LayoutHi.pos_lt (l : LayoutHi) (f : FieldName) : l.pos f < 32 := by
  cases f <;> simp only [LayoutHi.pos] <;> omega

/-- In the order of the cells each field stands below the one before it (10_state.md R11). -/
theorem LayoutHi.positions_descend {l : LayoutHi} (h : l.wf = true) :
    (FieldName.all.map l.pos).IsChain (· > ·) := by
  simp only [LayoutHi.wf, Bool.and_eq_true, decide_eq_true_eq] at h
  simp only [FieldName.all, LayoutHi.pos, List.map_cons, List.map_nil, List.isChain_cons_cons,
    List.isChain_singleton, and_true]
  omega

theorem LayoutHi.pos_injective {l : LayoutHi} (h : l.wf = true) {f g : FieldName}
    (hfg : l.pos f = l.pos g) : f = g := by
  have hnodup : (FieldName.all.map l.pos).Nodup :=
    (LayoutHi.positions_descend h).pairwise.imp Nat.ne_of_gt
  exact List.inj_on_of_nodup_map hnodup f.mem_all g.mem_all hfg

theorem getLsbD_bitMask (m n : Nat) : (bitMask m).getLsbD n = (decide (n < 32) && m == n) := by
  simp only [bitMask, BitVec.getLsbD_shiftLeft, BitVec.getLsbD_one]
  rw [Bool.eq_iff_iff]
  simp
  omega

/-- A bit of a word assembled from fields is set where a field that stands there is. -/
theorem Config.getLsbD_assembleFrom (c : Config) (value : FieldName → Bool) (fs : List FieldName)
    {n : Nat} (hn : n < 32) :
    (c.assembleFrom value fs).getLsbD n = fs.any fun f => value f && c.pos f == n := by
  induction fs with
  | nil => simp [Config.assembleFrom]
  | cons f fs ih =>
    rw [Config.assembleFrom, BitVec.getLsbD_or, ih, List.any_cons]
    cases value f with
    | false => simp
    | true => simp only [if_true, getLsbD_bitMask, hn, decide_true, Bool.true_and]

/-- The bits of the meaning mask are those where a field with a meaning stands. -/
theorem Config.getLsbD_activeMask (c : Config) {n : Nat} (hn : n < 32) :
    c.activeMask.getLsbD n = true ↔ ∃ f, c.variant f ≠ .res0 ∧ c.layoutHi.pos f = n := by
  simp [Config.activeMask, Config.assemble, Config.getLsbD_assembleFrom c _ _ hn, Config.active,
    Config.pos, FieldName.mem_all]

/-- The bits of `WMASK`: every bit where RES0 bits are storage, otherwise those of the meaning mask
(40_register_access.md R88). -/
theorem Config.getLsbD_wmask (c : Config) {n : Nat} (hn : n < 32) :
    c.wmask.getLsbD n = (c.res0Kind == .storage || c.activeMask.getLsbD n) := by
  unfold Config.wmask
  cases c.res0Kind with
  | razWi => rfl
  | storage =>
    exact BitVec.getLsbD_allOnes.trans (decide_eq_true hn)

theorem lowWord_zext64 (v : Word) : lowWord (zext64 v) = v := by
  simp [lowWord, zext64]

end Sys2Proof

/-! SUPPORT. The register value 0 enables nothing (41_exception_catch_control.md R146). -/

namespace Sys2Proof

@[simp] theorem Config.fieldBit_zero (c : Config) (f : FieldName) : c.fieldBit 0#32 f = false := by
  simp [Config.fieldBit, Config.storedField]

@[simp] theorem Config.returnBit_zero (c : Config) (t : Target) : c.returnBit 0#32 t = false :=
  c.fieldBit_zero _

@[simp] theorem Config.entryBit_zero (c : Config) (t : Target) : c.entryBit 0#32 t = false := by
  unfold Config.entryBit
  cases t.entryControl with
  | none => rfl
  | some f => exact c.fieldBit_zero f

theorem Config.fineEnabled_zero (c : Config) (t : Target) (k : Kind) :
    c.fineEnabled 0#32 t k = false := by
  cases k <;> simp [Config.fineEnabled]

theorem Config.coarseEnabled_zero (c : Config) (t : Target) (k : Kind) :
    c.coarseEnabled 0#32 t k = false := by
  simp [Config.coarseEnabled]

theorem Config.returnOnlyEnabled_zero (c : Config) (t : Target) (k : Kind) :
    c.returnOnlyEnabled 0#32 t k = false := by
  simp [Config.returnOnlyEnabled]

theorem Config.catchEnabled_zero (c : Config) (t : Target) (k : Kind) :
    c.catchEnabled 0#32 t k = false := by
  unfold Config.catchEnabled
  split
  · exact c.returnOnlyEnabled_zero t k
  · split
    · exact c.coarseEnabled_zero t k
    · exact c.fineEnabled_zero t k

end Sys2Proof

/-! SUPPORT. One equation per event of a step, and everything each event that is no arrival can do. -/

namespace Sys2Proof.Machine

open Host

/-! The step, one equation per kind of event. -/

theorem step_idle {s : State} (h : s.inputs = []) : step s = .next s := by
  simp only [step, h]

theorem step_access {s : State} {e : ExtAccess} {y : SysAccess} {f : List Byte} {rest : List Input}
    (h : s.inputs = .access e y f :: rest) : step s = performAccess f (s.takeAccess rest e y) := by
  simp only [step, h]

theorem step_arrive {s : State} {t : Target} {k : Kind} {rest : List Input}
    (h : s.inputs = .arrive t k :: rest) : step s = arrive t k (s.takeInput rest) := by
  simp only [step, h]

theorem step_arriveAtLevel3 {s : State} {k : Kind} {rest : List Input}
    (h : s.inputs = .arriveAtLevel3 k :: rest) : step s = arriveAtLevel3 k (s.takeInput rest) := by
  simp only [step, h]

theorem step_reset {s : State} {r : ResetKind} {rest : List Input}
    (h : s.inputs = .reset r :: rest) : step s = resetEvent r (s.takeInput rest) := by
  simp only [step, h]

theorem step_powerOff {s : State} {rest : List Input}
    (h : s.inputs = .powerOff :: rest) : step s = powerOff (s.takeInput rest) := by
  simp only [step, h]

theorem step_powerOn {s : State} {rest : List Input}
    (h : s.inputs = .powerOn :: rest) : step s = powerOn (s.takeInput rest) := by
  simp only [step, h]

theorem step_processorRuns {s : State} {b : Bool} {rest : List Input}
    (h : s.inputs = .processorRuns b :: rest) : step s = processorRuns b (s.takeInput rest) := by
  simp only [step, h]

theorem step_synchronised {s : State} {rest : List Input}
    (h : s.inputs = .synchronised :: rest) : step s = synchronised (s.takeInput rest) := by
  simp only [step, h]

/-! Requests. -/

/-- A request that decodes to an operation runs it. -/
theorem performAccess_op {f : List Byte} {i : Instr} (h : decode f = .op i) (s : State) :
    performAccess f s = exec i s := by
  simp only [performAccess, h]

/-- A request to something else is passed on. -/
theorem performAccess_outside {f : List Byte} (h : decode f = .outside) (s : State) :
    performAccess f s = .next (s.respond (.passed f)) := by
  simp only [performAccess, h]

/-- A request that is answered with a next state ran an operation or was passed on. -/
theorem performAccess_next {f : List Byte} {s s' : State} (h : performAccess f s = .next s') :
    (∃ i, decode f = .op i ∧ exec i s = .next s') ∨
      decode f = .outside ∧ s' = s.respond (.passed f) := by
  cases hd : decode f with
  | op i =>
    rw [performAccess_op hd] at h
    exact .inl ⟨i, rfl, h⟩
  | outside =>
    rw [performAccess_outside hd] at h
    exact .inr ⟨rfl, (Outcome.next.inj h).symm⟩
  | rejected r => simp only [performAccess, hd, reduceCtorEq] at h

/-! Arrivals. -/

/-- An arrival is refused while the domain is off. -/
theorem State.presentArrival_off {s : State} (h : s.core = .off) (outcomes : Word → List Bool)
    (o : Output) : s.presentArrival outcomes o = .refused .arrivalCoreOff := by
  simp only [State.presentArrival, h]

/-! Resets and power. -/

theorem resetEvent_off {s : State} (h : s.core = .off) (r : ResetKind) : resetEvent r s = .next s := by
  simp only [resetEvent, h]

/-- A reset of a kind in `RESETS_ON`. -/
theorem resetEvent_applied {s : State} {old : Word} {r : ResetKind} (h : s.core = .on old)
    (hr : s.cfg.resetsOnKind r = true) : resetEvent r s = .next s.resetRegister.processorIsRunning := by
  simp only [resetEvent, h, hr, if_true]

/-- A reset of a kind that is not in `RESETS_ON`. -/
theorem resetEvent_notApplied {s : State} {old : Word} {r : ResetKind} (h : s.core = .on old)
    (hr : s.cfg.resetsOnKind r = false) : resetEvent r s = .next s.processorIsRunning := by
  simp [resetEvent, h, hr]

/-- Everything a reset can do. -/
theorem resetEvent_next {r : ResetKind} {s s' : State} (h : resetEvent r s = .next s') :
    s' = s ∨ s' = s.processorIsRunning ∨ s' = s.resetRegister.processorIsRunning := by
  cases hc : s.core with
  | off =>
    rw [resetEvent_off hc] at h
    exact .inl (Outcome.next.inj h).symm
  | on v =>
    cases hr : s.cfg.resetsOnKind r with
    | false =>
      rw [resetEvent_notApplied hc hr] at h
      exact .inr (.inl (Outcome.next.inj h).symm)
    | true =>
      rw [resetEvent_applied hc hr] at h
      exact .inr (.inr (Outcome.next.inj h).symm)

/-- A power-down loses the value and leaves configuration, pending events and outputs. -/
theorem powerOff_next (s : State) :
    ∃ s', powerOff s = .next s' ∧ s'.core = .off ∧ s'.cfg = s.cfg ∧ s'.inputs = s.inputs ∧
      s'.trace = s.trace :=
  ⟨_, rfl, rfl, rfl, rfl, rfl⟩

theorem powerOn_off {s : State} (h : s.core = .off) :
    powerOn s = .next s.resetRegister.processorIsRunning := by
  simp only [powerOn, h]

theorem powerOn_on {s : State} {v : Word} (h : s.core = .on v) : powerOn s = .next s := by
  simp only [powerOn, h]

/-- Everything a power-up can do. -/
theorem powerOn_next {s s' : State} (h : powerOn s = .next s') :
    s' = s ∨ s' = s.resetRegister.processorIsRunning := by
  cases hc : s.core with
  | off =>
    rw [powerOn_off hc] at h
    exact .inr (Outcome.next.inj h).symm
  | on v =>
    rw [powerOn_on hc] at h
    exact .inl (Outcome.next.inj h).symm

/-- Everything the environment's notice about the processing element can do. -/
theorem processorRuns_next {b : Bool} {s s' : State} (h : processorRuns b s = .next s') :
    s' = s.processorIsRunning ∨ s' = s.processorIsStopped := by
  cases b with
  | true => exact .inl (Outcome.next.inj h).symm
  | false => exact .inr (Outcome.next.inj h).symm

end Sys2Proof.Machine

/-! SUPPORT. Values within the write mask (40_register_access.md R88). -/

namespace Sys2Proof.Machine

theorem withinMask_iff {c : Config} {v : Word} : withinMask c v = true ↔ v &&& ~~~c.wmask = 0#32 := by
  simp [withinMask]

/-- What a write stores is within the mask. -/
theorem withinMask_and_wmask (c : Config) (v : Word) : withinMask c (v &&& c.wmask) = true := by
  simp [withinMask_iff, BitVec.and_assoc]

theorem withinMask_zero (c : Config) : withinMask c 0#32 = true := by
  rw [withinMask_iff, BitVec.zero_and]

/-- Every bit that holds a meaning is storage, for either kind of RES0 bit. -/
theorem activeMask_and_wmask (c : Config) : c.activeMask &&& c.wmask = c.activeMask := by
  unfold Config.wmask
  cases c.res0Kind with
  | razWi => exact BitVec.and_self
  | storage => exact BitVec.and_allOnes

/-- The reset value is within the mask. -/
theorem withinMask_valueAtReset (c : Config) : withinMask c c.valueAtReset = true := by
  have hmasked : c.valueAtReset &&& c.wmask = c.valueAtReset := by
    rw [Config.valueAtReset, BitVec.and_assoc, activeMask_and_wmask]
  rw [← hmasked]
  exact withinMask_and_wmask c _

end Sys2Proof.Machine

/-! SUPPORT. Every operation of the state keeps it legal. -/

namespace Sys2Proof.Machine

open Host

/-- The invariant, part by part. -/
theorem State.legal_iff {s : State} :
    s.legal = true ↔
      s.cfg.wf = true ∧ (∀ v, s.core = .on v → withinMask s.cfg v = true) ∧
        (s.core = .off → s.unsettled = []) ∧
        ∀ w ∈ s.unsettled, withinMask s.cfg w.before = true ∧ (s.peRunning = true → w.peRan = true) := by
  have hcore : s.coreLegal = true ↔
      (∀ v, s.core = .on v → withinMask s.cfg v = true) ∧ (s.core = .off → s.unsettled = []) := by
    unfold State.coreLegal
    cases s.core <;> simp
  have hrecord : s.unsettledLegal = true ↔
      ∀ w ∈ s.unsettled, withinMask s.cfg w.before = true ∧ (s.peRunning = true → w.peRan = true) := by
    cases hp : s.peRunning <;> simp [State.unsettledLegal, hp]
  rw [State.legal, Bool.and_eq_true, Bool.and_eq_true, hcore, hrecord, and_assoc, and_assoc]

/-! What is outside the unit and its record makes no difference. -/

theorem State.respond_keeps_legal {s : State} (h : s.legal = true) (o : Output) :
    (s.respond o).legal = true := h

theorem State.takeInput_keeps_legal {s : State} (h : s.legal = true) (rest : List Input) :
    (s.takeInput rest).legal = true := h

theorem State.takeAccess_keeps_legal {s : State} (h : s.legal = true) (rest : List Input)
    (e : ExtAccess) (y : SysAccess) : (s.takeAccess rest e y).legal = true := h

/-- Dropping writes from the record keeps a state legal. -/
theorem State.legal_of_record_subset {s : State} {ws : List UnsettledWrite} (h : s.legal = true)
    (hsub : ws ⊆ s.unsettled) : { s with unsettled := ws }.legal = true := by
  obtain ⟨hcfg, hon, hoff, hrecord⟩ := State.legal_iff.1 h
  refine State.legal_iff.2 ⟨hcfg, hon, fun hc => ?_, fun w hw => hrecord w (hsub hw)⟩
  exact List.subset_nil.1 (hoff hc ▸ hsub)

theorem State.debuggerHasRead_keeps_legal {s : State} (h : s.legal = true) :
    s.debuggerHasRead.legal = true := by
  refine State.legal_of_record_subset h ?_
  rcases settledByRead_cases s.unsettled with hr | hr
  · rw [hr]
    exact List.nil_subset _
  · rw [hr]
    exact List.Subset.refl _

theorem State.processorIsRunning_keeps_legal {s : State} (h : s.legal = true) :
    s.processorIsRunning.legal = true := by
  obtain ⟨hcfg, hon, hoff, hrecord⟩ := State.legal_iff.1 h
  refine State.legal_iff.2 ⟨hcfg, hon, fun hc => by simp [hoff hc], fun w hw => ?_⟩
  obtain ⟨u, hu, rfl⟩ := List.mem_map.1 hw
  exact ⟨(hrecord u hu).1, fun _ => rfl⟩

theorem State.processorIsStopped_keeps_legal {s : State} (h : s.legal = true) :
    s.processorIsStopped.legal = true := by
  obtain ⟨hcfg, hon, hoff, hrecord⟩ := State.legal_iff.1 h
  exact State.legal_iff.2 ⟨hcfg, hon, hoff, fun w hw => ⟨(hrecord w hw).1, nofun⟩⟩

/-- A write stores a masked value, and what it puts on record is the value the register held. -/
theorem State.writeRegister_keeps_legal {s : State} (h : s.legal = true) (writer : Writer) (v : Word) :
    (s.writeRegister writer v).legal = true := by
  cases hc : s.core with
  | off => rwa [State.writeRegister_off hc]
  | on old =>
    obtain ⟨hcfg, hon, -, hrecord⟩ := State.legal_iff.1 h
    rw [State.writeRegister_on hc]
    refine State.legal_iff.2 ⟨hcfg, fun u hu => ?_, nofun, fun w hw => ?_⟩
    · cases hu
      exact withinMask_and_wmask _ _
    · rcases List.mem_cons.1 hw with rfl | hw
      · exact ⟨hon old hc, id⟩
      · exact hrecord w hw

theorem State.resetRegister_keeps_legal {s : State} (h : s.legal = true) : s.resetRegister.legal = true := by
  obtain ⟨hcfg, -, -, -⟩ := State.legal_iff.1 h
  refine State.legal_iff.2 ⟨hcfg, fun v hv => ?_, nofun, nofun⟩
  cases hv
  exact withinMask_valueAtReset _

/-- A powered-down unit holds nothing and has nothing on record. -/
theorem powerOff_keeps_legal {s s' : State} (h : s.legal = true) (hs : powerOff s = .next s') :
    s'.legal = true := by
  obtain ⟨hcfg, -, -, -⟩ := State.legal_iff.1 h
  cases hs
  exact State.legal_iff.2 ⟨hcfg, nofun, fun _ => rfl, nofun⟩

theorem synchronised_keeps_legal {s s' : State} (h : s.legal = true) (hs : synchronised s = .next s') :
    s'.legal = true := by
  cases hs
  exact State.legal_of_record_subset h fun _ => mem_of_mem_settledBySync

theorem State.presentArrival_keeps_legal {s s' : State} {outcomes : Word → List Bool} {o : Output}
    (h : s.legal = true) (hs : s.presentArrival outcomes o = .next s') : s'.legal = true := by
  obtain ⟨v, -, rfl⟩ := State.presentArrival_next hs
  exact State.processorIsRunning_keeps_legal h

theorem resetEvent_keeps_legal {r : ResetKind} {s s' : State} (h : s.legal = true)
    (hs : resetEvent r s = .next s') : s'.legal = true := by
  rcases resetEvent_next hs with rfl | rfl | rfl
  · exact h
  · exact State.processorIsRunning_keeps_legal h
  · exact State.processorIsRunning_keeps_legal (State.resetRegister_keeps_legal h)

theorem powerOn_keeps_legal {s s' : State} (h : s.legal = true) (hs : powerOn s = .next s') :
    s'.legal = true := by
  rcases powerOn_next hs with rfl | rfl
  · exact h
  · exact State.processorIsRunning_keeps_legal (State.resetRegister_keeps_legal h)

theorem processorRuns_keeps_legal {b : Bool} {s s' : State} (h : s.legal = true)
    (hs : processorRuns b s = .next s') : s'.legal = true := by
  rcases processorRuns_next hs with rfl | rfl
  · exact State.processorIsRunning_keeps_legal h
  · exact State.processorIsStopped_keeps_legal h

theorem exec_keeps_legal {i : Instr} {s s' : State} (h : s.legal = true) (hs : exec i s = .next s') :
    s'.legal = true := by
  rcases exec_next hs with ⟨o, rfl⟩ | ⟨v, -, -, rfl⟩ | ⟨v, old, -, -, -, rfl⟩ | ⟨v, o, -, -, rfl⟩ |
    ⟨v, old, -, -, -, rfl⟩
  · exact State.respond_keeps_legal h o
  · exact State.respond_keeps_legal (State.debuggerHasRead_keeps_legal h) _
  · exact State.respond_keeps_legal (State.writeRegister_keeps_legal h .debugger v) _
  · exact State.respond_keeps_legal (State.processorIsRunning_keeps_legal h) o
  · exact State.writeRegister_keeps_legal (State.processorIsRunning_keeps_legal h) _ _

theorem performAccess_keeps_legal {f : List Byte} {s s' : State} (h : s.legal = true)
    (hs : performAccess f s = .next s') : s'.legal = true := by
  rcases performAccess_next hs with ⟨i, -, hi⟩ | ⟨-, rfl⟩
  · exact exec_keeps_legal h hi
  · exact State.respond_keeps_legal h _

/-- Every step keeps the invariant, one case per kind of event. -/
theorem step_keeps_legal {s s' : State} (h : s.legal = true) (hs : step s = .next s') : s'.legal = true := by
  cases hin : s.inputs with
  | nil =>
    rw [step_idle hin] at hs
    cases hs
    exact h
  | cons event rest =>
    cases event with
    | access e y f =>
      rw [step_access hin] at hs
      exact performAccess_keeps_legal (State.takeAccess_keeps_legal h rest e y) hs
    | arrive t k =>
      rw [step_arrive hin] at hs
      exact State.presentArrival_keeps_legal (State.takeInput_keeps_legal h rest) hs
    | arriveAtLevel3 k =>
      rw [step_arriveAtLevel3 hin] at hs
      exact State.presentArrival_keeps_legal (State.takeInput_keeps_legal h rest) hs
    | reset r =>
      rw [step_reset hin] at hs
      exact resetEvent_keeps_legal (State.takeInput_keeps_legal h rest) hs
    | powerOff =>
      rw [step_powerOff hin] at hs
      exact powerOff_keeps_legal (State.takeInput_keeps_legal h rest) hs
    | powerOn =>
      rw [step_powerOn hin] at hs
      exact powerOn_keeps_legal (State.takeInput_keeps_legal h rest) hs
    | processorRuns b =>
      rw [step_processorRuns hin] at hs
      exact processorRuns_keeps_legal (State.takeInput_keeps_legal h rest) hs
    | synchronised =>
      rw [step_synchronised hin] at hs
      exact synchronised_keeps_legal (State.takeInput_keeps_legal h rest) hs

end Sys2Proof.Machine

/-! SUPPORT. The six operations: one equation per view for an access that is performed, the answers for one
that is not, and what a write and a read do through any view. -/

namespace Sys2Proof.Machine

open Host

/-! The external debug interface. -/

theorem exec_extRd_on {s : State} {v : Word} (hc : s.core = .on v) (ha : s.extAccess ≠ .error) :
    exec .extRd s = .next (s.debuggerHasRead.respond (.extValue v)) := by
  cases he : s.extAccess with
  | error => exact absurd he ha
  | ro => simp only [exec, execExtRd, hc, he]
  | rw => simp only [exec, execExtRd, hc, he]

theorem exec_extWr_rw {s : State} {old : Word} (hc : s.core = .on old) (ha : s.extAccess = .rw)
    (v : Word) : exec (.extWr v) s = .next ((s.writeRegister .debugger v).respond .extDone) := by
  simp only [exec, execExtWr, State.extAnswer, hc, ha]

/-- While the domain is off every external access is answered `ERROR` (10_state.md R43, decision D15). -/
theorem exec_ext_off {s : State} {i : Instr} (hc : s.core = .off) (hi : i = .extRd ∨ ∃ v, i = .extWr v) :
    exec i s = .next (s.respond .extError) := by
  rcases hi with rfl | ⟨v, rfl⟩
  · simp only [exec, execExtRd, hc]
  · simp only [exec, execExtWr, State.extAnswer, hc]

/-! The System register views. -/

theorem State.sysRegisterAccess_off {s : State} (hy : s.sysAccess = .allowed) (hc : s.core = .off)
    (go : Word → State → Outcome State Fault Refusal) :
    s.sysRegisterAccess go = .refused .sysAccessCoreOff := by
  simp only [State.sysRegisterAccess, hy, hc]

theorem exec_sys64Rd_allowed {s : State} {v : Word} (hy : s.sysAccess = .allowed) (hc : s.core = .on v)
    (t : Nat) : exec (.sys64Rd t) s = .next (s.processorIsRunning.respond (.sys64Value t (zext64 v))) := by
  simp only [exec, execSys64Rd, State.sysRegisterAccess_allowed hy hc]

theorem exec_sys64Wr_allowed {s : State} {old : Word} (hy : s.sysAccess = .allowed)
    (hc : s.core = .on old) (t : Nat) (x : Dword) :
    exec (.sys64Wr t x) s = .next (s.processorIsRunning.writeRegister .processor (lowWord x)) := by
  simp only [exec, execSys64Wr, State.sysRegisterAccess_allowed hy hc]

theorem exec_sys32Rd_allowed {s : State} {v : Word} (hy : s.sysAccess = .allowed) (hc : s.core = .on v)
    (t : Nat) : exec (.sys32Rd t) s = .next (s.processorIsRunning.respond (.sys32Value t v)) := by
  simp only [exec, execSys32Rd, State.sysRegisterAccess_allowed hy hc]

theorem exec_sys32Wr_allowed {s : State} {old : Word} (hy : s.sysAccess = .allowed)
    (hc : s.core = .on old) (t : Nat) (x : Word) :
    exec (.sys32Wr t x) s = .next (s.processorIsRunning.writeRegister .processor x) := by
  simp only [exec, execSys32Wr, State.sysRegisterAccess_allowed hy hc]

/-! Any view. -/

/-- No operation changes the configuration or the environment's two answers. -/
theorem exec_next_frame {i : Instr} {s s' : State} (h : exec i s = .next s') :
    s'.cfg = s.cfg ∧ s'.extAccess = s.extAccess ∧ s'.sysAccess = s.sysAccess := by
  rcases exec_next h with ⟨o, rfl⟩ | ⟨v, -, -, rfl⟩ | ⟨v, old, -, -, -, rfl⟩ | ⟨v, o, -, -, rfl⟩ |
    ⟨v, old, -, -, -, rfl⟩
  all_goals simp

/-- A write that is performed through any view leaves the written word under the mask. -/
theorem exec_write_core {w : Instr} {s s' : State} {old : Word} (hw : writesRegister w = true)
    (hc : s.core = .on old) (ha : s.extAccess = .rw) (h : exec w s = .next s') :
    s'.core = .on (writtenValue w &&& s.cfg.wmask) := by
  cases w with
  | extWr v =>
    rw [exec_extWr_rw hc ha] at h
    cases h
    exact State.writeRegister_core_on hc .debugger v
  | sys64Wr t x =>
    simp only [exec, execSys64Wr] at h
    obtain ⟨_, -, -, hgo⟩ := State.sysRegisterAccess_next h
    cases hgo
    exact State.writeRegister_core_on (s := s.processorIsRunning) hc .processor (lowWord x)
  | sys32Wr t x =>
    simp only [exec, execSys32Wr] at h
    obtain ⟨_, -, -, hgo⟩ := State.sysRegisterAccess_next h
    cases hgo
    exact State.writeRegister_core_on (s := s.processorIsRunning) hc .processor x
  | extRd => cases hw
  | sys64Rd t => cases hw
  | sys32Rd t => cases hw

/-- With the domain on and the access permitted, every write is performed. -/
theorem exec_write_completes {w : Instr} {s : State} {old : Word} (hw : writesRegister w = true)
    (hc : s.core = .on old) (ha : s.extAccess = .rw) (hy : s.sysAccess = .allowed) :
    ∃ s', exec w s = .next s' := by
  cases w with
  | extWr v => exact ⟨_, exec_extWr_rw hc ha v⟩
  | sys64Wr t x => exact ⟨_, exec_sys64Wr_allowed hy hc t x⟩
  | sys32Wr t x => exact ⟨_, exec_sys32Wr_allowed hy hc t x⟩
  | extRd => cases hw
  | sys64Rd t => cases hw
  | sys32Rd t => cases hw

/-- With the domain on and the access permitted, every read answers the register's word. -/
theorem exec_read_answers {r : Instr} {s : State} {v : Word} (hr : writesRegister r = false)
    (hc : s.core = .on v) (ha : s.extAccess ≠ .error) (hy : s.sysAccess = .allowed) :
    ∃ s' o, exec r s = .next s' ∧ s'.trace = s.trace ++ [o] ∧ viewedWord o = some v := by
  cases r with
  | extRd => exact ⟨_, _, exec_extRd_on hc ha, rfl, rfl⟩
  | sys64Rd t => exact ⟨_, _, exec_sys64Rd_allowed hy hc t, rfl, congrArg some (lowWord_zext64 v)⟩
  | sys32Rd t => exact ⟨_, _, exec_sys32Rd_allowed hy hc t, rfl, rfl⟩
  | extWr x => cases hr
  | sys64Wr t x => cases hr
  | sys32Wr t x => cases hr

end Sys2Proof.Machine

/-! SUPPORT. What an arrival sees in a settled state. -/

namespace Sys2Proof.Machine

open Host

/-- In a settled state an arrival sees the register's value alone. -/
theorem State.visibleValues_settled {s : State} (h : s.settled) (v : Word) : s.visibleValues v = [v] := by
  unfold State.visibleValues
  rcases h with h | h
  · rw [h]
  · rw [h]
    cases s.cfg.effectDelay <;> rfl

/-- An arrival in a settled state of which the register's value enables no outcome emits nothing. -/
theorem State.presentArrival_uncaught {s : State} {v : Word} {outcomes : Word → List Bool}
    (hc : s.core = .on v) (hs : s.settled) (hne : outcomes v ≠ []) (hout : ∀ b ∈ outcomes v, b = false)
    (o : Output) :
    s.presentArrival outcomes o = .next { s.processorIsRunning with draws := s.draws + 1 } := by
  have hres : resolve s.draws ((s.visibleValues v).flatMap outcomes) = false := by
    rw [State.visibleValues_settled hs, List.flatMap_singleton]
    exact resolve_all_false hne hout
  rw [State.presentArrival_on hc, hres]
  simp [emission]

theorem el3Outcomes_ne_nil (c : Config) (v : Word) (k : Kind) : c.el3Outcomes v k ≠ [] := by
  unfold Config.el3Outcomes
  cases c.el3PairRule <;> exact List.cons_ne_nil _ _

/-- With the register 0 and every write settled, no arrival is caught. -/
theorem arrive_zero {s : State} (hc : s.core = .on 0#32) (hs : s.settled) (t : Target) (k : Kind) :
    arrive t k s = .next { s.processorIsRunning with draws := s.draws + 1 } :=
  State.presentArrival_uncaught hc hs (List.cons_ne_nil _ _)
    (by simp [Config.catchEnabled_zero]) _

theorem arriveAtLevel3_zero {s : State} (hc : s.core = .on 0#32) (hs : s.settled) (k : Kind) :
    arriveAtLevel3 k s = .next { s.processorIsRunning with draws := s.draws + 1 } := by
  refine State.presentArrival_uncaught hc hs (el3Outcomes_ne_nil _ _ _) (fun b hb => ?_) _
  obtain ⟨t, -, rfl⟩ := mem_el3Outcomes.1 hb
  exact Config.catchEnabled_zero _ t k

end Sys2Proof.Machine

/-! SUPPORT. The statements about the register, its reset and its power domain. -/

namespace Sys2Proof.Machine

open Host

/-- Settles O46, from the rule of each event that it keeps the state legal. -/
theorem everyStepKeepsTheStateLegal : Obligations.EveryStepKeepsTheStateLegal :=
  fun _ _ => step_keeps_legal

/-- Settles O5: in the order of the cells the positions descend, so no two are the same. -/
theorem fieldsStandAtDifferentBits : Obligations.FieldsStandAtDifferentBits :=
  ⟨fun l hl => ⟨l.pos_lt, fun _ _ => LayoutHi.pos_injective hl⟩, by decide⟩

/-- Settles O18: the write leaves the masked word in the register, and every read answers the register. -/
theorem viewsShareOneStorage : Obligations.ViewsShareOneStorage := by
  intro s old w r hc ha hy hw hr
  obtain ⟨s1, h1⟩ := exec_write_completes hw hc ha hy
  obtain ⟨-, ha1, hy1⟩ := exec_next_frame h1
  have hc1 := exec_write_core hw hc ha h1
  obtain ⟨s2, o, h2, htrace, hview⟩ := exec_read_answers hr hc1 (by simp [ha1, ha]) (hy1.trans hy)
  exact ⟨s1, s2, o, h1, h2, htrace, hview⟩

/-- Settles O21, from the bits of `WMASK`. -/
theorem writtenBitsReadBack : Obligations.WrittenBitsReadBack := by
  intro s s' w old u n _ hw hc ha h hu hn
  obtain rfl : writtenValue w &&& s.cfg.wmask = u :=
    CoreDomain.on.inj ((exec_write_core hw hc ha h).symm.trans hu)
  rw [BitVec.getLsbD_and, s.cfg.getLsbD_wmask hn]
  refine ⟨fun hmeaning => ?_, fun hreserved => ?_⟩
  · rw [(s.cfg.getLsbD_activeMask hn).2 hmeaning, Bool.or_true, Bool.and_true]
  · have hclear : s.cfg.activeMask.getLsbD n = false := by
      rw [Bool.eq_false_iff, Ne, s.cfg.getLsbD_activeMask hn]
      rintro ⟨f, hf, hpos⟩
      exact hf (hreserved f hpos)
    rw [hclear, Bool.or_false, Bool.and_comm]

/-- Settles O39, one clause per answer of `RESETS_ON`. -/
theorem resetsOfTheRegister : Obligations.ResetsOfTheRegister := by
  intro s old r rest hin hc
  have hc' : (s.takeInput rest).core = .on old := hc
  rw [step_reset hin]
  exact ⟨fun hr => resetEvent_applied hc' hr, fun hr => resetEvent_notApplied hc' hr⟩

/-- Settles O40: the reset leaves the register 0 and every write settled. -/
theorem nothingIsCaughtAfterAColdReset : Obligations.NothingIsCaughtAfterAColdReset := by
  intro s old t k rest hin hc hcold hzero
  obtain ⟨event, hin, hevent⟩ : ∃ event, s.inputs = .reset .cold :: event :: rest ∧
      (event = .arrive t k ∨ event = .arriveAtLevel3 k) := by
    rcases hin with hin | hin
    · exact ⟨_, hin, .inl rfl⟩
    · exact ⟨_, hin, .inr rfl⟩
  have h1 := (step_reset hin).trans (resetEvent_applied (r := .cold) hc hcold)
  have hc1 : (s.takeInput rest).resetRegister.processorIsRunning.core = .on 0#32 := by
    simp [Config.valueAtReset, hzero]
  have hs1 : (s.takeInput rest).resetRegister.processorIsRunning.settled := .inr rfl
  rcases hevent with rfl | rfl
  · exact ⟨_, _, h1, (step_arrive rfl).trans (arrive_zero hc1 hs1 t k), hc1, rfl⟩
  · exact ⟨_, _, h1, (step_arriveAtLevel3 rfl).trans (arriveAtLevel3_zero hc1 hs1 k), hc1, rfl⟩

/-- Settles O42: the access finds the domain off, and the power-up after it resets the register. -/
theorem powerCycleLosesTheValue : Obligations.PowerCycleLosesTheValue := by
  intro s a y f i rest hi hdec hin
  obtain ⟨s1, h1, hc1, hcfg1, hin1, htrace1⟩ :=
    powerOff_next (s.takeInput (.access a y f :: .powerOn :: rest))
  have h2 : step s1 = .next ((s1.takeAccess (.powerOn :: rest) a y).respond .extError) :=
    (step_access hin1).trans ((performAccess_op hdec _).trans (exec_ext_off hc1 hi))
  have hin2 : ((s1.takeAccess (.powerOn :: rest) a y).respond .extError).inputs = .powerOn :: rest :=
    rfl
  have h3 := (step_powerOn hin2).trans (powerOn_off hc1)
  refine ⟨s1, _, _, (step_powerOff hin).trans h1, h2, h3, hc1, hc1, ?_, ?_, rfl⟩
  · simp [htrace1]
  · simp [hcfg1, Config.valueAtReset]

/-- Settles O16. -/
theorem sysAccessWithDomainOffIsRefused : Obligations.SysAccessWithDomainOffIsRefused := by
  intro s t x v hy hc
  simp only [exec, execSys64Rd, execSys64Wr, execSys32Rd, execSys32Wr, State.sysRegisterAccess_off hy hc,
    and_self]

/-- Settles O36, for either kind of arrival. -/
theorem arrivalWithDomainOffIsRefused : Obligations.ArrivalWithDomainOffIsRefused :=
  fun s _ _ rest hc =>
    ⟨fun hin => (step_arrive hin).trans (State.presentArrival_off (s := s.takeInput rest) hc _ _),
      fun hin => (step_arriveAtLevel3 hin).trans
        (State.presentArrival_off (s := s.takeInput rest) hc _ _)⟩

/-- The reset state has an admitted configuration, the value 0 and an empty record. -/
theorem State.reset_legal : State.reset.legal = true := by
  have hcfg : State.reset.cfg.wf = true := by decide
  refine State.legal_iff.2 ⟨hcfg, fun v hv => ?_, nofun, nofun⟩
  cases hv
  exact withinMask_zero _

/-- Settles O43. -/
theorem resetStateIsLegal : Obligations.ResetStateIsLegal :=
  ⟨rfl, rfl, rfl, .inr rfl, State.reset_legal⟩

end Sys2Proof.Machine

/-! SUPPORT. The frame of an external access is read back, and where the access falls decides what it is
(20_memory.md R54, R55). -/

namespace Sys2Proof

/-! From the bytes to the request. -/

@[simp] theorem directionOf_directionByte (dir : Direction) : directionOf (directionByte dir) = some dir := by
  cases dir <;> rfl

@[simp] theorem widthOf_widthByte (w : AccessWidth) : widthOf (widthByte w) = some w := by
  cases w <;> rfl

/-- A frame of two numbers in little-endian order around the four selector bytes gives both numbers back,
each modulo the size of its lane. -/
theorem parseFrame_leBytes (lane data : Nat) (port dir sel t : Byte) :
    parseFrame (leBytes 8 lane ++ [port, dir, sel, t] ++ leBytes 4 data) =
      requestOf port dir sel t (lane % 256 ^ 8) (data % 256 ^ 4) := by
  rw [← leNat_leBytes, ← leNat_leBytes]
  rfl

theorem parseFrame_frameOf_ext (dir : Direction) (d : Dword) (w : AccessWidth) (v : Word) :
    parseFrame (frameOf (.ext dir d w v)) = some (.ext dir d w v) := by
  have hd : d.toNat % 256 ^ 8 = d.toNat := Nat.mod_eq_of_lt d.isLt
  have hv : v.toNat % 256 ^ 4 = v.toNat := Nat.mod_eq_of_lt v.isLt
  rw [frameOf, parseFrame_leBytes, hd, hv]
  simp [requestOf]

theorem decode_frameOf_ext (dir : Direction) (d : Dword) (w : AccessWidth) (v : Word) :
    decode (frameOf (.ext dir d w v)) = classify (.ext dir d w v) := by
  simp only [decode, parseFrame_frameOf_ext]

/-! Where an access falls. -/

theorem isRegisterAccess_iff {d : Dword} {w : AccessWidth} :
    isRegisterAccess d w = true ↔ w = .four ∧ d.toNat = 0x098 := by
  simp [isRegisterAccess, registerOffset]

theorem touchesRegister_iff {d : Dword} {n : Nat} :
    touchesRegister d n = true ↔ d.toNat < 0x09C ∧ 0x098 < d.toNat + n := by
  rw [touchesRegister, Bool.and_eq_true, decide_eq_true_eq, decide_eq_true_eq]
  rfl

/-- The admitted access touches the register. -/
theorem touchesRegister_of_isRegisterAccess {d : Dword} {w : AccessWidth}
    (h : isRegisterAccess d w = true) : touchesRegister d w.bytes = true := by
  obtain ⟨rfl, hd⟩ := isRegisterAccess_iff.1 h
  exact touchesRegister_iff.2 (by simp [hd, AccessWidth.bytes])

theorem overlapsBadly_iff {d : Dword} {w : AccessWidth} :
    Machine.overlapsBadly d w ↔ touchesRegister d w.bytes = true ∧ isRegisterAccess d w = false := by
  rw [Machine.overlapsBadly, touchesRegister_iff, Bool.eq_false_iff, Ne, isRegisterAccess_iff, and_assoc]

theorem missesRegister_iff {d : Dword} {w : AccessWidth} :
    Machine.missesRegister d w ↔ touchesRegister d w.bytes = false := by
  rw [Machine.missesRegister, Bool.eq_false_iff, Ne, touchesRegister_iff]
  omega

theorem classify_ext_register {d : Dword} {w : AccessWidth} (h : isRegisterAccess d w = true)
    (dir : Direction) (v : Word) :
    classify (.ext dir d w v) = .op (match dir with | .read => .extRd | .write => .extWr v) := by
  simp only [classify, h, if_true]
  cases dir <;> rfl

theorem classify_ext_partial {d : Dword} {w : AccessWidth} (ht : touchesRegister d w.bytes = true)
    (h : isRegisterAccess d w = false) (dir : Direction) (v : Word) :
    classify (.ext dir d w v) = .rejected .partialAccess := by
  simp [classify, h, ht]

theorem classify_ext_outside {d : Dword} {w : AccessWidth} (ht : touchesRegister d w.bytes = false)
    (dir : Direction) (v : Word) : classify (.ext dir d w v) = .outside := by
  have h : isRegisterAccess d w = false := by
    rw [Bool.eq_false_iff]
    intro h
    exact Bool.false_ne_true (ht.symm.trans (touchesRegister_of_isRegisterAccess h))
  simp [classify, h, ht]

/-- An external access is an operation of the unit only as the 32-bit access at the register's offset. -/
theorem classify_ext_op_iff {dir : Direction} {d : Dword} {w : AccessWidth} {v : Word} :
    (∃ i, classify (.ext dir d w v) = .op i) ↔ w = .four ∧ d.toNat = 0x098 := by
  rw [← isRegisterAccess_iff]
  cases h : isRegisterAccess d w with
  | true => exact iff_of_true ⟨_, classify_ext_register h dir v⟩ rfl
  | false =>
    refine iff_of_false ?_ Bool.false_ne_true
    rintro ⟨i, hi⟩
    cases ht : touchesRegister d w.bytes with
    | true => cases (classify_ext_partial ht h dir v).symm.trans hi
    | false => cases (classify_ext_outside ht dir v).symm.trans hi

/-- Two displacements from the same base are at the same address only if they are equal: the sum wraps
around, so nothing need be known of the base. -/
theorem absoluteAddress_eq_iff {d e : Dword} :
    absoluteAddress d = Config.debugBase + e ↔ d.toNat = e.toNat := by
  rw [absoluteAddress, BitVec.add_right_inj, BitVec.toNat_inj]

/-! The byte lanes of the word (20_memory.md R53). -/

theorem byteLane_eq_ofNat (v : Word) (i : Nat) : byteLane v i = BitVec.ofNat 8 (v.toNat / 256 ^ i) := by
  apply BitVec.eq_of_toNat_eq
  rw [byteLane, BitVec.extractLsb'_toNat, BitVec.toNat_ofNat, Nat.shiftRight_eq_div_pow, pow_mul]
  rfl

/-- The four lanes, in order, are the bytes in which a frame carries the word. -/
theorem byteLanes_eq_leBytes (v : Word) :
    [byteLane v 0, byteLane v 1, byteLane v 2, byteLane v 3] = leBytes 4 v.toNat := by
  simp [byteLane_eq_ofNat, leBytes, Nat.div_div_eq_div_mul]

end Sys2Proof

/-! SUPPORT. What an operation, and then any step, does to the register and its power, and what a performed
write puts on record. -/

namespace Sys2Proof.Machine

open Host

/-! Operations. -/

/-- An operation leaves the register and its power, or it is a write and puts its masked value into a
register that was there. -/
theorem exec_core_cases {i : Instr} {s s' : State} (h : exec i s = .next s') :
    s'.core = s.core ∨
      writesRegister i = true ∧ ∃ old, s.core = .on old ∧ s'.core = .on (writtenValue i &&& s.cfg.wmask) := by
  rcases exec_next h with ⟨o, rfl⟩ | ⟨v, -, -, rfl⟩ | ⟨v, old, rfl, hc, -, rfl⟩ | ⟨v, o, -, -, rfl⟩ |
    ⟨v, old, hc, -, hi, rfl⟩
  · exact .inl rfl
  · exact .inl rfl
  · exact .inr ⟨rfl, old, hc, State.writeRegister_core_on hc .debugger v⟩
  · exact .inl rfl
  · have hcore := State.writeRegister_core_on (s := s.processorIsRunning) hc .processor v
    rcases hi with ⟨t, x, rfl, rfl⟩ | ⟨t, rfl⟩
    · exact .inr ⟨rfl, old, hc, hcore⟩
    · exact .inr ⟨rfl, old, hc, hcore⟩

theorem exec_read_core {i : Instr} {s s' : State} (hi : writesRegister i = false)
    (h : exec i s = .next s') : s'.core = s.core :=
  (exec_core_cases h).resolve_right fun hw => absurd hw.1 (by simp [hi])

theorem exec_off_core {i : Instr} {s s' : State} (hc : s.core = .off) (h : exec i s = .next s') :
    s'.core = s.core :=
  (exec_core_cases h).resolve_right fun ⟨_, _, hon, _⟩ => by simp [hc] at hon

/-- No operation takes an event or makes a draw, and outputs are only added. -/
theorem exec_next_log {i : Instr} {s s' : State} (h : exec i s = .next s') :
    s'.inputs = s.inputs ∧ s'.draws = s.draws ∧ s.trace <+: s'.trace := by
  rcases exec_next h with ⟨o, rfl⟩ | ⟨v, -, -, rfl⟩ | ⟨v, old, -, -, -, rfl⟩ | ⟨v, o, -, -, rfl⟩ |
    ⟨v, old, -, -, -, rfl⟩
  all_goals simp

/-- A performed write puts the value the register held in front of the older values on record. -/
theorem exec_write_record {w : Instr} {s s' : State} {old : Word} (hw : writesRegister w = true)
    (hc : s.core = .on old) (ha : s.extAccess = .rw) (h : exec w s = .next s') :
    s'.unsettled.map (·.before) = old :: s.unsettled.map (·.before) := by
  have hprocessor (v : Word) : (s.processorIsRunning.writeRegister .processor v).unsettled.map (·.before) =
      old :: s.unsettled.map (·.before) := by
    rw [State.writeRegister_on (s := s.processorIsRunning) hc]
    simp [Function.comp_def]
  cases w with
  | extWr v =>
    rw [exec_extWr_rw hc ha] at h
    cases h
    rw [State.respond_unsettled, State.writeRegister_on hc, List.map_cons]
  | sys64Wr t x =>
    simp only [exec, execSys64Wr] at h
    obtain ⟨_, -, -, hgo⟩ := State.sysRegisterAccess_next h
    cases hgo
    exact hprocessor (lowWord x)
  | sys32Wr t x =>
    simp only [exec, execSys32Wr] at h
    obtain ⟨_, -, -, hgo⟩ := State.sysRegisterAccess_next h
    cases hgo
    exact hprocessor x
  | extRd => cases hw
  | sys64Rd t => cases hw
  | sys32Rd t => cases hw

/-- A value may be seen if it is the register's or stands on record as one before a write. -/
theorem State.mayBeSeen_iff_mem_record {s : State} {v u : Word} :
    s.mayBeSeen v u ↔ u = v ∨ s.cfg.effectDelay = .unstated ∧ u ∈ s.unsettled.map (·.before) := by
  simp [State.mayBeSeen]

/-! Steps. -/

theorem performAccess_core {f : List Byte} {s s' : State}
    (hf : ∀ i, decode f = .op i → writesRegister i = false) (h : performAccess f s = .next s') :
    s'.core = s.core := by
  rcases performAccess_next h with ⟨i, hd, hi⟩ | ⟨-, rfl⟩
  · exact exec_read_core (hf i hd) hi
  · rfl

theorem State.presentArrival_core {s s' : State} {outcomes : Word → List Bool} {o : Output}
    (h : s.presentArrival outcomes o = .next s') : s'.core = s.core := by
  obtain ⟨v, -, rfl⟩ := State.presentArrival_next h
  rfl

theorem processorRuns_core {b : Bool} {s s' : State} (h : processorRuns b s = .next s') :
    s'.core = s.core := by
  rcases processorRuns_next h with rfl | rfl <;> rfl

theorem synchronised_core {s s' : State} (h : synchronised s = .next s') : s'.core = s.core := by
  cases h
  rfl

/-- A request may change the register only as an operation that writes it. -/
theorem writesRegister_of_mayChangeRegister_false {e : ExtAccess} {y : SysAccess} {f : List Byte} {i : Instr}
    (h : mayChangeRegister (.access e y f) = false) (hd : decode f = .op i) : writesRegister i = false := by
  simpa only [mayChangeRegister, hd] using h

/-- A step that takes no event, or one that may not change the register, leaves register and power. -/
theorem step_keeps_core {s s' : State}
    (hin : ∀ event rest, s.inputs = event :: rest → mayChangeRegister event = false)
    (hs : step s = .next s') : s'.core = s.core := by
  cases hi : s.inputs with
  | nil =>
    rw [step_idle hi] at hs
    cases hs
    rfl
  | cons event rest =>
    have hevent := hin event rest hi
    cases event with
    | access e y f =>
      rw [step_access hi] at hs
      exact performAccess_core (s := s.takeAccess rest e y)
        (fun i => writesRegister_of_mayChangeRegister_false hevent) hs
    | arrive t k =>
      rw [step_arrive hi] at hs
      exact State.presentArrival_core (s := s.takeInput rest) hs
    | arriveAtLevel3 k =>
      rw [step_arriveAtLevel3 hi] at hs
      exact State.presentArrival_core (s := s.takeInput rest) hs
    | processorRuns b =>
      rw [step_processorRuns hi] at hs
      exact processorRuns_core (s := s.takeInput rest) hs
    | synchronised =>
      rw [step_synchronised hi] at hs
      exact synchronised_core (s := s.takeInput rest) hs
    | reset r => cases hevent
    | powerOff => cases hevent
    | powerOn => cases hevent

/-! Arrivals that race a write. -/

/-- The outcomes an arrival is resolved from are those of the values it may see. -/
theorem State.mem_visible_outcomes {s : State} {v : Word} {f : Word → Bool} {b : Bool} :
    b ∈ (s.visibleValues v).flatMap (fun u => [f u]) ↔ ∃ u, s.mayBeSeen v u ∧ b = f u := by
  simp [State.mem_visibleValues]

theorem State.outcome_mem_visible {s : State} {v u : Word} (h : s.mayBeSeen v u) (f : Word → Bool) :
    f u ∈ (s.visibleValues v).flatMap (fun u => [f u]) :=
  State.mem_visible_outcomes.2 ⟨u, h, rfl⟩

/-- Where writes do not take effect at once, a fact about every value an arrival may see is one about the
register and about every value on record. -/
theorem State.forall_mayBeSeen {s : State} (hd : s.cfg.effectDelay = .unstated) {v : Word} {p : Word → Prop} :
    (∀ u, s.mayBeSeen v u → p u) ↔ p v ∧ ∀ w ∈ s.unsettled, p w.before := by
  simp [State.mayBeSeen, hd, or_imp, forall_and]

/-- Outcomes that agree decide an arrival. -/
theorem State.resolve_visible_agree {s : State} {v : Word} {f : Word → Bool} {b : Bool}
    (h : ∀ u, s.mayBeSeen v u → f u = b) (n : Nat) :
    resolve n ((s.visibleValues v).flatMap fun u => [f u]) = b := by
  have hall : ∀ a ∈ (s.visibleValues v).flatMap (fun u => [f u]), a = b := by
    intro a ha
    obtain ⟨u, hu, rfl⟩ := State.mem_visible_outcomes.1 ha
    exact h u hu
  cases b with
  | true => exact resolve_all_true hall
  | false =>
    exact resolve_all_false (List.ne_nil_of_mem (State.outcome_mem_visible (.inl rfl) f)) hall

/-- Two values an arrival may see that disagree leave it to the free draw. -/
theorem State.resolve_visible_differ {s : State} {v u u' : Word} {f : Word → Bool} (hu : s.mayBeSeen v u)
    (hu' : s.mayBeSeen v u') (hne : f u ≠ f u') (n : Nat) :
    resolve n ((s.visibleValues v).flatMap fun u => [f u]) = Config.freeDraw n := by
  have hmem := State.outcome_mem_visible hu f
  have hmem' := State.outcome_mem_visible hu' f
  rw [Bool.eq_not.2 hne.symm] at hmem'
  cases hb : f u with
  | true =>
    rw [hb] at hmem hmem'
    exact resolve_differ hmem hmem'
  | false =>
    rw [hb] at hmem hmem'
    exact resolve_differ hmem' hmem

end Sys2Proof.Machine

/-! SUPPORT. The statements about the register's place in the address space and what may change it. -/

namespace Sys2Proof.Machine

open Host

/-- Settles O3: the frame reads back, and the access is sorted by where its bytes fall. -/
theorem externalRequestsSortByAddressAndWidth : Obligations.ExternalRequestsSortByAddressAndWidth := by
  intro dir d w v
  rw [decode_frameOf_ext]
  refine ⟨fun h => classify_ext_register (isRegisterAccess_iff.2 h) dir v, fun h => ?_, fun h => ?_⟩
  · obtain ⟨htouch, hreg⟩ := overlapsBadly_iff.1 h
    exact classify_ext_partial htouch hreg dir v
  · exact classify_ext_outside (missesRegister_iff.1 h) dir v

/-- Settles O4: adding the base to two displacements keeps them apart. -/
theorem registerAddressIsBasePlusOffset : Obligations.RegisterAddressIsBasePlusOffset := by
  intro dir d v
  rw [decode_frameOf_ext, classify_ext_op_iff, absoluteAddress_eq_iff]
  exact and_iff_right rfl

/-- Settles O17, from everything an operation can do. -/
theorem operationsChangeOnlyTheRegister : Obligations.OperationsChangeOnlyTheRegister := by
  intro i s s' h
  obtain ⟨hcfg, hext, hsys⟩ := exec_next_frame h
  obtain ⟨hinputs, hdraws, htrace⟩ := exec_next_log h
  exact ⟨hcfg, hext, hsys, hinputs, hdraws, htrace, fun hi => exec_read_core hi h,
    (exec_core_cases h).imp_right And.right⟩

/-- Settles O19: the second write stores what the register holds, and the value it puts on record could be
seen already, as the register's own. -/
theorem sameValueWrittenTwiceChangesNothingMore : Obligations.SameValueWrittenTwiceChangesNothingMore := by
  intro s s1 s2 w w' hw hw' hsame ha h1 h2
  obtain ⟨hcfg1, hext1, -⟩ := exec_next_frame h1
  obtain ⟨hcfg2, -, -⟩ := exec_next_frame h2
  cases hc : s.core with
  | off =>
    have hc1 : s1.core = .off := (exec_off_core hc h1).trans hc
    exact ⟨⟨exec_off_core hc1 h2, hcfg2⟩, fun v hv => by simp [hc1] at hv⟩
  | on old =>
    have hc1 := exec_write_core hw hc ha h1
    have hc2 := exec_write_core hw' hc1 (hext1.trans ha) h2
    refine ⟨⟨by rw [hc2, hc1, hsame, hcfg1], hcfg2⟩, fun v hv => ?_⟩
    have hrecord := exec_write_record hw' hv (hext1.trans ha) h2
    refine ⟨hrecord, fun u => ?_⟩
    rw [State.mayBeSeen_iff_mem_record, State.mayBeSeen_iff_mem_record, hrecord, hcfg2, List.mem_cons]
    tauto

/-- Settles O33: the arrival is resolved from the outcomes of the register and of every value on record. -/
theorem racingArrivalAdmitsOldAndNew : Obligations.RacingArrivalAdmitsOldAndNew := by
  intro s v t k rest hin hc hd
  have hseen {p : Word → Prop} (hv : p v) (hw : ∀ w ∈ s.unsettled, p w.before) :
      ∀ u, (s.takeInput rest).mayBeSeen v u → p u :=
    (State.forall_mayBeSeen (s := s.takeInput rest) hd).2 ⟨hv, hw⟩
  refine ⟨_, _, (step_arrive hin).trans (State.presentArrival_on (s := s.takeInput rest) hc _ _),
    ⟨rfl, rfl⟩, rfl, rfl, ?_, ?_, ?_⟩
  · exact fun hv hw => State.resolve_visible_agree (f := (s.cfg.catchEnabled · t k)) (hseen hv hw) _
  · exact fun hv hw => State.resolve_visible_agree (f := (s.cfg.catchEnabled · t k)) (hseen hv hw) _
  · rintro ⟨w, hw, hne⟩
    exact State.resolve_visible_differ (f := (s.cfg.catchEnabled · t k)) (.inr ⟨hd, w, hw, rfl⟩)
      (.inl rfl) hne _

/-- Settles O47, from what every other event leaves unchanged. -/
theorem onlyWritesResetsAndPowerChangeTheRegister : Obligations.OnlyWritesResetsAndPowerChangeTheRegister := by
  intro s s' hs hne
  by_contra hnone
  refine hne (step_keeps_core (fun event rest hin => ?_) hs)
  exact Bool.eq_false_iff.2 fun hevent => hnone ⟨event, rest, hin, hevent⟩

/-- Settles O9: the lanes are the bytes in which a frame carries the word, and those read back. -/
theorem byteLanesMakeUpTheWord : Obligations.ByteLanesMakeUpTheWord := by
  intro v
  rw [byteLanes_eq_leBytes, leNat_leBytes]
  exact Nat.mod_eq_of_lt v.isLt

end Sys2Proof.Machine

/-! SUPPORT. Clearing reserved bits, function by function: a word is read alike before and after, and what
the unit does to a state it does to the cleared state too (30_encoding.md R70, R71). -/

namespace Sys2Proof.Machine

open Host

/-! The word. -/

theorem meaningBits_idem (c : Config) (v : Word) : meaningBits c (meaningBits c v) = meaningBits c v := by
  rw [meaningBits, meaningBits, BitVec.and_assoc, BitVec.and_self]

/-- The write mask takes away only reserved bits. -/
theorem meaningBits_and_wmask (c : Config) (v : Word) :
    meaningBits c (v &&& c.wmask) = meaningBits c v := by
  rw [meaningBits, meaningBits, BitVec.and_assoc, BitVec.and_comm c.wmask, activeMask_and_wmask]

/-- A word without reserved bits passes the write mask as it is. -/
theorem meaningBits_and_wmask_self (c : Config) (v : Word) :
    meaningBits c v &&& c.wmask = meaningBits c v := by
  rw [meaningBits, BitVec.and_assoc, activeMask_and_wmask]

theorem meaningBits_valueAtReset (c : Config) : meaningBits c c.valueAtReset = c.valueAtReset :=
  meaningBits_idem c c.resetValue

theorem lowWord_eq_extractLsb' (x : Dword) : lowWord x = x.extractLsb' 0 32 :=
  BitVec.setWidth_eq_extractLsb' (by decide)

/-! The query reads a field only where it has a meaning (41_exception_catch_control.md R141). -/

@[simp] theorem fieldBit_meaningBits (c : Config) (v : Word) (f : FieldName) :
    c.fieldBit (meaningBits c v) f = c.fieldBit v f := by
  unfold Config.fieldBit
  cases hf : c.active f with
  | false => rfl
  | true =>
    have hmask : c.activeMask.getLsbD (c.pos f) = true :=
      (c.getLsbD_activeMask (c.layoutHi.pos_lt f)).2 ⟨f, by simpa [Config.active] using hf, rfl⟩
    rw [Config.storedField, Config.storedField, meaningBits, BitVec.getLsbD_and, hmask, Bool.and_true]

@[simp] theorem entryBit_meaningBits (c : Config) (v : Word) (t : Target) :
    c.entryBit (meaningBits c v) t = c.entryBit v t := by
  unfold Config.entryBit
  cases t.entryControl with
  | none => rfl
  | some f => exact fieldBit_meaningBits c v f

@[simp] theorem returnBit_meaningBits (c : Config) (v : Word) (t : Target) :
    c.returnBit (meaningBits c v) t = c.returnBit v t :=
  fieldBit_meaningBits c v _

theorem fineEnabled_meaningBits (c : Config) (v : Word) (t : Target) (k : Kind) :
    c.fineEnabled (meaningBits c v) t k = c.fineEnabled v t k := by
  cases k <;> simp [Config.fineEnabled]

@[simp] theorem catchEnabled_meaningBits (c : Config) (v : Word) (t : Target) (k : Kind) :
    c.catchEnabled (meaningBits c v) t k = c.catchEnabled v t k := by
  simp only [Config.catchEnabled, Config.returnOnlyEnabled, Config.coarseEnabled, returnBit_meaningBits,
    entryBit_meaningBits, fineEnabled_meaningBits]

theorem el3Outcomes_meaningBits (c : Config) (v : Word) (k : Kind) :
    c.el3Outcomes (meaningBits c v) k = c.el3Outcomes v k := by
  simp only [Config.el3Outcomes, catchEnabled_meaningBits]

/-! The updates of the state. -/

theorem clearReserved_core_off {s : State} (h : s.core = .off) : s.clearReserved.core = .off := by
  rw [State.clearReserved_core, h, CoreDomain.clearReserved]

theorem clearReserved_core_on {s : State} {v : Word} (h : s.core = .on v) :
    s.clearReserved.core = .on (meaningBits s.cfg v) := by
  rw [State.clearReserved_core, h, CoreDomain.clearReserved]

theorem clearReserved_respond (s : State) (o : Output) :
    (s.respond o).clearReserved = s.clearReserved.respond (o.clearReserved s.cfg) := by
  simp [State.clearReserved, State.respond]

theorem clearReserved_processorIsRunning (s : State) :
    s.processorIsRunning.clearReserved = s.clearReserved.processorIsRunning := by
  simp only [State.clearReserved, State.processorIsRunning, clearReserved_markRan]

theorem clearReserved_debuggerHasRead (s : State) :
    s.debuggerHasRead.clearReserved = s.clearReserved.debuggerHasRead := by
  simp only [State.clearReserved, State.debuggerHasRead, clearReserved_settledByRead]

theorem clearReserved_resetRegister (s : State) :
    s.resetRegister.clearReserved = s.clearReserved.resetRegister := by
  simp [State.clearReserved, State.resetRegister, CoreDomain.clearReserved, meaningBits_valueAtReset]

/-- What a write leaves, cleared, is what the write of the cleared word leaves in the cleared state. -/
theorem clearReserved_writeRegister (s : State) (w : Writer) (v : Word) :
    (s.writeRegister w v).clearReserved = s.clearReserved.writeRegister w (meaningBits s.cfg v) := by
  cases hc : s.core with
  | off =>
    rw [State.writeRegister_off hc, State.writeRegister_off (clearReserved_core_off hc)]
  | on old =>
    rw [State.writeRegister_on hc, State.writeRegister_on (clearReserved_core_on hc)]
    simp [State.clearReserved, CoreDomain.clearReserved, UnsettledWrite.clearReserved,
      meaningBits_and_wmask, meaningBits_and_wmask_self]

/-- An arrival sees the values it would see, each with its reserved bits cleared. -/
theorem visibleValues_clearReserved (s : State) (v : Word) :
    s.clearReserved.visibleValues (meaningBits s.cfg v) = (s.visibleValues v).map (meaningBits s.cfg) := by
  simp only [State.visibleValues, State.clearReserved_cfg, State.clearReserved_unsettled, List.map_map]
  cases s.cfg.effectDelay <;> simp [Function.comp_def, UnsettledWrite.clearReserved]

/-! Outcomes. -/

/-- An outcome with the reserved bits of its next state, if it is one, cleared. -/
def clearOutcome : Outcome State Fault Refusal → Outcome State Fault Refusal
  | .next s => .next s.clearReserved
  | .fault r => .fault r
  | .refused r => .refused r

theorem sameButReserved_iff {a b : Outcome State Fault Refusal} :
    sameButReserved a b ↔ clearOutcome a = clearOutcome b := by
  cases a with
  | next s => cases b <;> simp [sameButReserved, clearOutcome]
  | fault r => cases r
  | refused r => cases b <;> simp [sameButReserved, clearOutcome]

/-- What commutes with clearing reserved bits does the same to states alike but for them. -/
theorem sameButReserved_of_commutes {op : State → Outcome State Fault Refusal}
    (hop : ∀ s, clearOutcome (op s) = op s.clearReserved) {s s' : State}
    (h : s.clearReserved = s'.clearReserved) : sameButReserved (op s) (op s') := by
  rw [sameButReserved_iff, hop, hop, h]

/-! The operations. -/

/-- An operation with the reserved bits of the word it writes cleared. -/
def clearWritten (c : Config) : Instr → Instr
  | .extRd => .extRd
  | .extWr v => .extWr (meaningBits c v)
  | .sys64Rd t => .sys64Rd t
  | .sys64Wr t x => .sys64Wr t (zext64 (meaningBits c (lowWord x)))
  | .sys32Rd t => .sys32Rd t
  | .sys32Wr t x => .sys32Wr t (meaningBits c x)

theorem clearOutcome_sysRegisterAccess {s : State} {go go' : Word → State → Outcome State Fault Refusal}
    (hgo : ∀ v, clearOutcome (go v s.processorIsRunning) =
      go' (meaningBits s.cfg v) s.clearReserved.processorIsRunning) :
    clearOutcome (s.sysRegisterAccess go) = s.clearReserved.sysRegisterAccess go' := by
  cases hy : s.sysAccess with
  | notAllowed => simp [State.sysRegisterAccess, hy, clearOutcome]
  | allowed =>
    cases hc : s.core with
    | off =>
      rw [State.sysRegisterAccess_off hy hc,
        State.sysRegisterAccess_off (s := s.clearReserved) hy (clearReserved_core_off hc)]
      rfl
    | on v =>
      rw [State.sysRegisterAccess_allowed hy hc, hgo,
        State.sysRegisterAccess_allowed (s := s.clearReserved) hy (clearReserved_core_on hc)]

theorem clearOutcome_execExtRd (s : State) : clearOutcome (execExtRd s) = execExtRd s.clearReserved := by
  simp only [execExtRd, State.clearReserved_core, State.clearReserved_extAccess]
  cases s.core with
  | off => exact congrArg Outcome.next (clearReserved_respond s _)
  | on v =>
    have hread : (s.debuggerHasRead.respond (.extValue v)).clearReserved =
        s.clearReserved.debuggerHasRead.respond (.extValue (meaningBits s.cfg v)) := by
      rw [clearReserved_respond, clearReserved_debuggerHasRead]
      rfl
    cases s.extAccess with
    | error => exact congrArg Outcome.next (clearReserved_respond s _)
    | ro => exact congrArg Outcome.next hread
    | rw => exact congrArg Outcome.next hread

theorem extAnswer_clearReserved (s : State) : s.clearReserved.extAnswer = s.extAnswer := by
  simp only [State.extAnswer, State.clearReserved_core, State.clearReserved_extAccess]
  cases s.core <;> rfl

theorem clearOutcome_execExtWr (v : Word) (s : State) :
    clearOutcome (execExtWr v s) = execExtWr (meaningBits s.cfg v) s.clearReserved := by
  simp only [execExtWr, extAnswer_clearReserved]
  cases s.extAnswer with
  | error => exact congrArg Outcome.next (clearReserved_respond s _)
  | ro => exact congrArg Outcome.next (clearReserved_respond s _)
  | rw =>
    refine congrArg Outcome.next ?_
    rw [clearReserved_respond, clearReserved_writeRegister]
    rfl

/-- A write by the processing element, whichever view it comes through. -/
theorem clearOutcome_processorWrite (s : State) (v : Word) :
    clearOutcome (.next (s.processorIsRunning.writeRegister .processor v)) =
      .next (s.clearReserved.processorIsRunning.writeRegister .processor (meaningBits s.cfg v)) := by
  rw [clearOutcome, clearReserved_writeRegister, clearReserved_processorIsRunning]
  rfl

/-- A read by the processing element that answers `o`. -/
theorem clearOutcome_processorRead (s : State) (o : Output) :
    clearOutcome (.next (s.processorIsRunning.respond o)) =
      .next (s.clearReserved.processorIsRunning.respond (o.clearReserved s.cfg)) := by
  rw [clearOutcome, clearReserved_respond, clearReserved_processorIsRunning]
  rfl

/-- What an operation does, cleared, is what the operation with its written word cleared does to the cleared
state. -/
theorem clearOutcome_exec (i : Instr) (s : State) :
    clearOutcome (exec i s) = exec (clearWritten s.cfg i) s.clearReserved := by
  cases i with
  | extRd => exact clearOutcome_execExtRd s
  | extWr v => exact clearOutcome_execExtWr v s
  | sys64Rd t =>
    simp only [exec, execSys64Rd, clearWritten]
    refine clearOutcome_sysRegisterAccess fun v => ?_
    rw [clearOutcome_processorRead, Output.clearReserved, lowWord_zext64]
  | sys64Wr t x =>
    simp only [exec, execSys64Wr, clearWritten, lowWord_zext64]
    exact clearOutcome_sysRegisterAccess fun _ => clearOutcome_processorWrite s (lowWord x)
  | sys32Rd t =>
    simp only [exec, execSys32Rd, clearWritten]
    exact clearOutcome_sysRegisterAccess fun v => clearOutcome_processorRead s (.sys32Value t v)
  | sys32Wr t x =>
    simp only [exec, execSys32Wr, clearWritten]
    exact clearOutcome_sysRegisterAccess fun _ => clearOutcome_processorWrite s x

/-- Operations alike but for the reserved bits they write do the same to states alike but for reserved
bits. -/
theorem exec_sameButReserved {s s' : State} {i i' : Instr} (h : s.clearReserved = s'.clearReserved)
    (hi : clearWritten s.cfg i = clearWritten s.cfg i') : sameButReserved (exec i s) (exec i' s') := by
  have hcfg : s.cfg = s'.cfg := (congrArg State.cfg h :)
  rw [sameButReserved_iff, clearOutcome_exec, clearOutcome_exec, ← h, ← hcfg, hi]

/-! Requests and the other events. -/

theorem performAccess_sameButReserved {s s' : State} (h : s.clearReserved = s'.clearReserved)
    (f : List Byte) : sameButReserved (performAccess f s) (performAccess f s') := by
  cases hd : decode f with
  | op i =>
    rw [performAccess_op hd, performAccess_op hd]
    exact exec_sameButReserved h rfl
  | outside =>
    rw [performAccess_outside hd, performAccess_outside hd]
    exact sameButReserved_of_commutes (op := fun s => .next (s.respond (.passed f)))
      (fun s => congrArg Outcome.next (clearReserved_respond s _)) h
  | rejected r =>
    simp only [performAccess, hd, sameButReserved]

theorem clearOutcome_presentArrival {s : State} {outcomes : Word → List Bool}
    (hout : ∀ v, outcomes (meaningBits s.cfg v) = outcomes v) (o : Output) :
    clearOutcome (s.presentArrival outcomes o) =
      s.clearReserved.presentArrival outcomes (o.clearReserved s.cfg) := by
  cases hc : s.core with
  | off =>
    rw [State.presentArrival_off hc, State.presentArrival_off (clearReserved_core_off hc)]
    rfl
  | on v =>
    have hseen : (s.clearReserved.visibleValues (meaningBits s.cfg v)).flatMap outcomes =
        (s.visibleValues v).flatMap outcomes := by
      rw [visibleValues_clearReserved, List.flatMap_map]
      exact congrArg (s.visibleValues v).flatMap (funext hout)
    rw [State.presentArrival_on hc, State.presentArrival_on (clearReserved_core_on hc), hseen]
    simp only [clearOutcome, State.clearReserved, State.processorIsRunning, clearReserved_markRan,
      List.map_append]
    cases resolve s.draws ((s.visibleValues v).flatMap outcomes) <;> rfl

theorem clearOutcome_arrive (t : Target) (k : Kind) (s : State) :
    clearOutcome (arrive t k s) = arrive t k s.clearReserved :=
  clearOutcome_presentArrival (fun v => by rw [catchEnabled_meaningBits]) _

theorem clearOutcome_arriveAtLevel3 (k : Kind) (s : State) :
    clearOutcome (arriveAtLevel3 k s) = arriveAtLevel3 k s.clearReserved :=
  clearOutcome_presentArrival (fun v => el3Outcomes_meaningBits s.cfg v k) _

theorem clearOutcome_resetEvent (r : ResetKind) (s : State) :
    clearOutcome (resetEvent r s) = resetEvent r s.clearReserved := by
  cases hc : s.core with
  | off =>
    rw [resetEvent_off hc, resetEvent_off (clearReserved_core_off hc)]
    rfl
  | on v =>
    have hc' := clearReserved_core_on hc
    cases hr : s.cfg.resetsOnKind r with
    | false =>
      rw [resetEvent_notApplied hc hr, resetEvent_notApplied hc' hr, clearOutcome,
        clearReserved_processorIsRunning]
    | true =>
      rw [resetEvent_applied hc hr, resetEvent_applied hc' hr, clearOutcome,
        clearReserved_processorIsRunning, clearReserved_resetRegister]

theorem clearOutcome_powerOn (s : State) : clearOutcome (powerOn s) = powerOn s.clearReserved := by
  cases hc : s.core with
  | off =>
    rw [powerOn_off hc, powerOn_off (clearReserved_core_off hc), clearOutcome,
      clearReserved_processorIsRunning, clearReserved_resetRegister]
  | on v =>
    rw [powerOn_on hc, powerOn_on (clearReserved_core_on hc)]
    rfl

theorem clearOutcome_processorRuns (b : Bool) (s : State) :
    clearOutcome (processorRuns b s) = processorRuns b s.clearReserved := by
  cases b with
  | true => exact congrArg Outcome.next (clearReserved_processorIsRunning s)
  | false => rfl

theorem clearOutcome_synchronised (s : State) :
    clearOutcome (synchronised s) = synchronised s.clearReserved := by
  simp only [synchronised, clearOutcome, State.clearReserved, clearReserved_settledBySync]

/-- Taking the next event keeps two states alike but for reserved bits. -/
theorem takeInput_clearReserved {s s' : State} (h : s.clearReserved = s'.clearReserved)
    (rest : List Input) : (s.takeInput rest).clearReserved = (s'.takeInput rest).clearReserved :=
  congrArg (State.takeInput · rest) h

theorem takeAccess_clearReserved {s s' : State} (h : s.clearReserved = s'.clearReserved)
    (rest : List Input) (e : ExtAccess) (y : SysAccess) :
    (s.takeAccess rest e y).clearReserved = (s'.takeAccess rest e y).clearReserved :=
  congrArg (State.takeAccess · rest e y) h

/-- A step from states alike but for reserved bits, one case per kind of event. -/
theorem step_sameButReserved {s s' : State} (h : s.clearReserved = s'.clearReserved) :
    sameButReserved (step s) (step s') := by
  have hinputs : s.inputs = s'.inputs := (congrArg State.inputs h :)
  cases hin : s.inputs with
  | nil =>
    rw [step_idle hin, step_idle (hinputs.symm.trans hin)]
    exact h
  | cons event rest =>
    have hin' : s'.inputs = event :: rest := hinputs.symm.trans hin
    have htake := takeInput_clearReserved h rest
    cases event with
    | access e y f =>
      rw [step_access hin, step_access hin']
      exact performAccess_sameButReserved (takeAccess_clearReserved h rest e y) f
    | arrive t k =>
      rw [step_arrive hin, step_arrive hin']
      exact sameButReserved_of_commutes (clearOutcome_arrive t k) htake
    | arriveAtLevel3 k =>
      rw [step_arriveAtLevel3 hin, step_arriveAtLevel3 hin']
      exact sameButReserved_of_commutes (clearOutcome_arriveAtLevel3 k) htake
    | reset r =>
      rw [step_reset hin, step_reset hin']
      exact sameButReserved_of_commutes (clearOutcome_resetEvent r) htake
    | powerOff =>
      rw [step_powerOff hin, step_powerOff hin']
      exact sameButReserved_of_commutes (fun _ => rfl) htake
    | powerOn =>
      rw [step_powerOn hin, step_powerOn hin']
      exact sameButReserved_of_commutes clearOutcome_powerOn htake
    | processorRuns b =>
      rw [step_processorRuns hin, step_processorRuns hin']
      exact sameButReserved_of_commutes (clearOutcome_processorRuns b) htake
    | synchronised =>
      rw [step_synchronised hin, step_synchronised hin']
      exact sameButReserved_of_commutes clearOutcome_synchronised htake

end Sys2Proof.Machine

/-! SUPPORT. The assembled word, bit by bit. -/

namespace Sys2Proof

/-- A bit of the assembled word is set exactly where a field with the value 1 stands (30_encoding.md R66). -/
theorem Config.getLsbD_assemble (c : Config) (value : FieldName → Bool) {n : Nat} (hn : n < 32) :
    (c.assemble value).getLsbD n = true ↔ ∃ f, value f = true ∧ c.layoutHi.pos f = n := by
  simp [Config.assemble, Config.getLsbD_assembleFrom c _ _ hn, Config.pos, FieldName.mem_all]

end Sys2Proof

/-! SUPPORT. The statements about the encoding of the word and its reserved bits. -/

namespace Sys2Proof.Machine

open Host

/-- Settles O59, from the rule of each event. -/
theorem reservedBitsChangeNoBehaviour : Obligations.ReservedBitsChangeNoBehaviour :=
  fun _ _ => step_sameButReserved

/-- Settles O58: words that agree in the bits with a meaning are one word once the others are cleared. -/
theorem reservedBitsOfAWriteChangeNoBehaviour : Obligations.ReservedBitsOfAWriteChangeNoBehaviour := by
  intro s s' h
  refine ⟨fun v v' hv => ⟨?_, fun t => ?_⟩, fun t x x' hx => ?_⟩
  · exact exec_sameButReserved h (congrArg Instr.extWr hv)
  · exact exec_sameButReserved h (congrArg (Instr.sys32Wr t) hv)
  · rw [← lowWord_eq_extractLsb', ← lowWord_eq_extractLsb'] at hx
    exact exec_sameButReserved h (congrArg (fun v => Instr.sys64Wr t (zext64 v)) hx)

/-- Settles O6: no two fields share a bit, so the only field that stands at a field's position is itself. -/
theorem assembledFieldsReadBack : Obligations.AssembledFieldsReadBack := by
  intro c value hwf
  refine ⟨fun f => ?_, fun n hn => ?_⟩
  · rw [Bool.eq_iff_iff, c.getLsbD_assemble value (c.layoutHi.pos_lt f)]
    refine ⟨fun ⟨g, hg, hpos⟩ => ?_, fun hf => ⟨f, hf, rfl⟩⟩
    rwa [← LayoutHi.pos_injective hwf hpos]
  · rcases lt_or_ge n 32 with hlt | hge
    · rw [Bool.eq_false_iff, Ne, c.getLsbD_assemble value hlt]
      exact fun ⟨f, _, hpos⟩ => hn f hpos
    · exact BitVec.getLsbD_of_ge _ n hge

/-- Settles O22: the low word is all that the write takes from `Xt`. -/
theorem upperHalfOfXtIsNotLookedAt : Obligations.UpperHalfOfXtIsNotLookedAt := by
  intro s t t' x x' hx
  rw [← lowWord_eq_extractLsb', ← lowWord_eq_extractLsb'] at hx
  simp only [exec, execSys64Wr, hx]

end Sys2Proof.Machine

/-! SUPPORT. The frame of a System register access is read back, and a request to something else is passed on
(40_register_access.md R91). -/

namespace Sys2Proof

@[simp] theorem sysRegisterOf_sysRegisterByte (reg : SysRegister) :
    sysRegisterOf (sysRegisterByte reg) = reg := by
  cases reg <;> rfl

/-- The frame carries eight bits of the register number: a number it cannot hold is read back modulo 256. -/
theorem parseFrame_frameOf_sys64 (dir : Direction) (reg : SysRegister) (t : Nat) (x : Dword) :
    parseFrame (frameOf (.sys64 dir reg t x)) = some (.sys64 dir reg (t % 256) x) := by
  have hx : x.toNat % 256 ^ 8 = x.toNat := Nat.mod_eq_of_lt x.isLt
  rw [frameOf, parseFrame_leBytes, hx]
  simp [requestOf]

theorem parseFrame_frameOf_sys32 (dir : Direction) (reg : SysRegister) (t : Nat) (x : Word) :
    parseFrame (frameOf (.sys32 dir reg t x)) = some (.sys32 dir reg (t % 256) x) := by
  have hx : x.toNat % 256 ^ 8 = x.toNat := Nat.mod_eq_of_lt (x.isLt.trans (by decide))
  rw [frameOf, parseFrame_leBytes, hx]
  simp [requestOf]

theorem decode_frameOf_sys64 (dir : Direction) (reg : SysRegister) (t : Nat) (x : Dword) :
    decode (frameOf (.sys64 dir reg t x)) = classify (.sys64 dir reg (t % 256) x) := by
  simp only [decode, parseFrame_frameOf_sys64]

theorem decode_frameOf_sys32 (dir : Direction) (reg : SysRegister) (t : Nat) (x : Word) :
    decode (frameOf (.sys32 dir reg t x)) = classify (.sys32 dir reg (t % 256) x) := by
  simp only [decode, parseFrame_frameOf_sys32]

theorem classify_sys64_other (dir : Direction) (t : Nat) (x : Dword) :
    classify (.sys64 dir .other t x) = .outside := by
  cases dir <;> rfl

theorem classify_sys32_other (dir : Direction) (t : Nat) (x : Word) :
    classify (.sys32 dir .other t x) = .outside := by
  cases dir <;> rfl

end Sys2Proof

namespace Sys2Proof.Machine

open Host

/-- A request to something else takes the event and hands the frame to the environment, and that is all. -/
theorem step_access_outside {s : State} {e : ExtAccess} {y : SysAccess} {f : List Byte} {rest : List Input}
    (h : s.inputs = .access e y f :: rest) (hd : decode f = .outside) :
    step s = .next ((s.takeAccess rest e y).respond (.passed f)) := by
  rw [step_access h, performAccess_outside hd]

/-- Settles O45: each of the three frames reads back as a request to something else, and the step that takes
such a request only passes it on. -/
theorem otherAccessesArePassedOn : Obligations.OtherAccessesArePassedOn := by
  refine ⟨fun dir d w v hmiss => ?_, fun dir t x => ?_, fun dir t x => ?_, fun s e y f rest hin hd => ?_⟩
  · exact (decode_frameOf_ext dir d w v).trans (classify_ext_outside (missesRegister_iff.1 hmiss) dir v)
  · exact (decode_frameOf_sys64 dir .other t x).trans (classify_sys64_other dir _ x)
  · exact (decode_frameOf_sys32 dir .other t x).trans (classify_sys32_other dir _ x)
  · exact ⟨_, step_access_outside hin hd, ⟨rfl, rfl⟩, rfl, rfl, rfl⟩

end Sys2Proof.Machine

/-! SUPPORT. The query, one equation per shape of target, and what it reads: a target's own controls, and
those only where they have a meaning (41_exception_catch_control.md R139 to R146). -/

namespace Sys2Proof

/-! A field as the meaning rules read it. -/

theorem Config.fieldBit_of_res0 {c : Config} {f : FieldName} (h : c.variant f = .res0) (v : Word) :
    c.fieldBit v f = false := by
  simp [Config.fieldBit, Config.active, h]

theorem Config.fieldBit_of_ne_res0 {c : Config} {f : FieldName} (h : c.variant f ≠ .res0) (v : Word) :
    c.fieldBit v f = v.getLsbD (c.layoutHi.pos f) := by
  simp [Config.fieldBit, Config.active, Config.storedField, Config.pos, h]

theorem Config.fieldBit_of_fine {c : Config} {f : FieldName} (h : c.variant f = .fine) (v : Word) :
    c.fieldBit v f = v.getLsbD (c.layoutHi.pos f) :=
  Config.fieldBit_of_ne_res0 (by simp [h]) v

/-- Two values that agree on a field, if it has a meaning, are read alike there. -/
theorem Config.fieldBit_congr {c : Config} {v v' : Word} {f : FieldName}
    (h : c.variant f ≠ .res0 → v.getLsbD (c.layoutHi.pos f) = v'.getLsbD (c.layoutHi.pos f)) :
    c.fieldBit v f = c.fieldBit v' f := by
  by_cases hf : c.variant f = .res0
  · rw [Config.fieldBit_of_res0 hf, Config.fieldBit_of_res0 hf]
  · rw [Config.fieldBit_of_ne_res0 hf, Config.fieldBit_of_ne_res0 hf, h hf]

/-! The query at the three shapes of target: a return control only, a coarse control, a fine pair. -/

/-- A target's reset entry is caught where the implementation says so: a target whose tables mention none has
no choice to make. -/
theorem Config.resetCaught_eq_catchesReset (c : Config) (t : Target) : c.resetCaught t = c.catchesReset t := by
  cases t <;> rfl

section Shapes

variable {c : Config} {t : Target} {e : FieldName}

theorem Config.entryBit_of_some (he : t.entryControl = some e) (v : Word) :
    c.entryBit v t = c.fieldBit v e := by
  simp only [Config.entryBit, he]

theorem Config.catchEnabled_returnOnly (he : t.entryControl = none) (v : Word) (k : Kind) :
    c.catchEnabled v t k = (k == .exceptionReturn && c.fieldBit v t.returnControl) := by
  simp only [Config.catchEnabled, he, Config.returnOnlyEnabled, Config.returnBit]

theorem Config.catchEnabled_coarse (he : t.entryControl = some e) (hc : c.variant e = .coarse) (v : Word)
    (k : Kind) :
    c.catchEnabled v t k = (c.fieldBit v e && c.coarseCovers k && (k != .resetEntry || c.catchesReset t)) := by
  simp only [Config.catchEnabled, he, hc, if_true, Config.coarseEnabled, Config.entryBit_of_some he,
    Config.resetCaught_eq_catchesReset]

theorem Config.catchEnabled_fine (he : t.entryControl = some e) (hc : c.variant e ≠ .coarse) (v : Word)
    (k : Kind) : c.catchEnabled v t k = c.fineEnabled v t k := by
  simp only [Config.catchEnabled, he, hc, if_false]

theorem Config.catchEnabled_fine_entry (he : t.entryControl = some e) (hc : c.variant e ≠ .coarse)
    (v : Word) : c.catchEnabled v t .entry = c.fieldBit v e :=
  (Config.catchEnabled_fine he hc v _).trans (Config.entryBit_of_some he v)

theorem Config.catchEnabled_fine_resetEntry (he : t.entryControl = some e) (hc : c.variant e ≠ .coarse)
    (v : Word) : c.catchEnabled v t .resetEntry = (c.fieldBit v e && c.catchesReset t) := by
  rw [Config.catchEnabled_fine he hc, Config.fineEnabled, Config.entryBit_of_some he,
    Config.resetCaught_eq_catchesReset]

theorem Config.catchEnabled_fine_return (he : t.entryControl = some e) (hc : c.variant e ≠ .coarse)
    (v : Word) :
    c.catchEnabled v t .exceptionReturn = (c.fieldBit v e != c.fieldBit v t.returnControl) := by
  rw [Config.catchEnabled_fine he hc, Config.fineEnabled, Config.entryBit_of_some he, Config.returnBit]

end Shapes

/-- Whatever the shape of the target, a reset entry is enabled only where it is caught. -/
theorem Config.catchesReset_of_catchEnabled {c : Config} {v : Word} {t : Target}
    (h : c.catchEnabled v t .resetEntry = true) : c.catchesReset t = true := by
  cases he : t.entryControl with
  | none => simp [Config.catchEnabled_returnOnly he] at h
  | some e =>
    by_cases hc : c.variant e = .coarse
    · rw [Config.catchEnabled_coarse he hc] at h
      exact (Bool.and_eq_true_iff.1 h).2
    · rw [Config.catchEnabled_fine_resetEntry he hc] at h
      exact (Bool.and_eq_true_iff.1 h).2

/-! What the query reads. -/

/-- `f` is one of the one or two controls of `t` (41_exception_catch_control.md R102). -/
abbrev Target.Reads (t : Target) (f : FieldName) : Prop :=
  t.entryControl = some f ∨ t.returnControl = f

/-- The target a field is a control of, if it is one of any. -/
def FieldName.controls : FieldName → Option Target
  | .rtr3 | .rte3 => some .rootEL3
  | .rlr2 | .rle2 => some .realmEL2
  | .rlr1 | .rle1 => some .realmEL1
  | .rlr0 => some .realmEL0
  | .nsr2 | .nse2 => some .nonSecureEL2
  | .nsr1 | .nse1 => some .nonSecureEL1
  | .nsr0 => some .nonSecureEL0
  | .sr3 | .se3 => some .el3
  | .sr2 | .se2 => some .secureEL2
  | .sr1 | .se1 => some .secureEL1
  | .sr0 => some .secureEL0
  | .nsr3 | .nse3 | .nse0 | .se0 => none

theorem Target.controls_of_reads {t : Target} {f : FieldName} (h : t.Reads f) : f.controls = some t := by
  rcases h with h | rfl
  · cases t <;> cases h <;> rfl
  · cases t <;> rfl

/-- No field controls two targets. -/
theorem Target.eq_of_reads {t t' : Target} {f : FieldName} (h : t.Reads f) (h' : t'.Reads f) : t = t' :=
  Option.some.inj ((Target.controls_of_reads h).symm.trans (Target.controls_of_reads h'))

/-- The query takes a value through the two control bits alone. -/
theorem Config.catchEnabled_congr_bits {c : Config} {v v' : Word} {t : Target}
    (he : c.entryBit v t = c.entryBit v' t) (hr : c.returnBit v t = c.returnBit v' t) (k : Kind) :
    c.catchEnabled v t k = c.catchEnabled v' t k := by
  have hfine : c.fineEnabled v t k = c.fineEnabled v' t k := by
    cases k <;> simp only [Config.fineEnabled, he, hr]
  simp only [Config.catchEnabled, Config.returnOnlyEnabled, Config.coarseEnabled, he, hr, hfine]

/-- Values that agree on a target's controls, where those have a meaning, are answered alike there. -/
theorem Config.catchEnabled_congr {c : Config} {v v' : Word} {t : Target}
    (h : ∀ f, t.Reads f → c.variant f ≠ .res0 →
      v.getLsbD (c.layoutHi.pos f) = v'.getLsbD (c.layoutHi.pos f)) (k : Kind) :
    c.catchEnabled v t k = c.catchEnabled v' t k := by
  refine Config.catchEnabled_congr_bits ?_ (Config.fieldBit_congr (h _ (.inr rfl))) k
  cases he : t.entryControl with
  | none => simp only [Config.entryBit, he]
  | some e =>
    rw [Config.entryBit_of_some he, Config.entryBit_of_some he]
    exact Config.fieldBit_congr (h e (.inl he))

/-- A target none of whose controls is set where it has a meaning has nothing enabled. -/
theorem Config.catchEnabled_of_clear {c : Config} {v : Word} {t : Target}
    (h : ∀ f, t.Reads f → c.variant f ≠ .res0 → v.getLsbD (c.layoutHi.pos f) = false) (k : Kind) :
    c.catchEnabled v t k = false := by
  rw [← c.catchEnabled_zero t k]
  exact Config.catchEnabled_congr (fun f hf hm => by rw [h f hf hm, BitVec.getLsbD_zero]) k

/-- Inverting the bit of a field without a meaning changes no answer. -/
theorem Config.catchEnabled_invert_res0 {c : Config} (hl : c.layoutHi.wf = true) {g : FieldName}
    (hg : c.variant g = .res0) (v : Word) (t : Target) (k : Kind) :
    c.catchEnabled (v ^^^ bitMask (c.layoutHi.pos g)) t k = c.catchEnabled v t k := by
  refine Config.catchEnabled_congr (fun f _ hf => ?_) k
  have hne : c.layoutHi.pos g ≠ c.layoutHi.pos f := by
    intro hpos
    rw [LayoutHi.pos_injective hl hpos] at hg
    exact hf hg
  rw [BitVec.getLsbD_xor, getLsbD_bitMask, beq_false_of_ne hne, Bool.and_false, Bool.xor_false]

/-- A control of a target is fine where every field is. -/
theorem Config.variant_of_reads {c : Config} (hv : c.variants = Variants.allFine) {t : Target}
    {f : FieldName} (h : t.Reads f) : c.variant f = .fine := by
  rcases h with h | rfl
  · cases t <;> cases h <;> simp [Config.variant, hv, Variants.allFine]
  · cases t <;> simp [Config.variant, Target.returnControl, hv, Variants.allFine]

end Sys2Proof

/-! SUPPORT. The tables of the statements, each proved once for the target it speaks of. -/

namespace Sys2Proof.Machine

/-- The four rows of a fine pair, for any target with two controls. -/
theorem finePair_of_entryControl {c : Config} {t : Target} {e : FieldName} (he : t.entryControl = some e)
    (v : Word) : finePair c v t e t.returnControl (c.catchesReset t) := by
  intro hfe hfr
  have hc : c.variant e ≠ .coarse := by simp [hfe]
  have hentry := Config.catchEnabled_fine_entry he hc v
  have hreset := Config.catchEnabled_fine_resetEntry he hc v
  have hreturn := Config.catchEnabled_fine_return he hc v
  rw [Config.fieldBit_of_fine hfe] at hentry hreset hreturn
  rw [Config.fieldBit_of_fine hfr] at hreturn
  refine ⟨fun hE hR k => ?_, fun hE hR => ?_, fun hE hR => ?_, fun hE hR => ?_⟩
  · cases k <;> simp [hentry, hreset, hreturn, hE, hR]
  all_goals simp [hentry, hreset, hreturn, hE, hR]

/-- The two rows of a return control, for any target with that control only. -/
theorem returnOnlyRows_of_entryControl {c : Config} {t : Target} (he : t.entryControl = none) (v : Word) :
    returnOnlyRows c v t t.returnControl := by
  refine ⟨Config.catchEnabled_returnOnly he v _, Config.catchEnabled_returnOnly he v _, fun hf => ?_⟩
  rw [Config.catchEnabled_returnOnly he, Config.fieldBit_of_fine hf]
  rfl

/-- The two rows of a coarse control, for any target with an entry control. -/
theorem coarseRows_of_entryControl {c : Config} {t : Target} {e : FieldName} (he : t.entryControl = some e)
    (v : Word) : coarseRows c v t e := by
  intro hc
  have hm : c.variant e ≠ .res0 := by simp [hc]
  refine ⟨fun hE k => ?_, fun hE => ?_⟩
  · simp [Config.catchEnabled_coarse he hc, Config.fieldBit_of_ne_res0 hm, hE]
  · simp [Config.catchEnabled_coarse he hc, Config.fieldBit_of_ne_res0 hm, hE, Config.coarseCovers]

/-- A value that sets no named bit but the controls of `t` enables nothing at another target. -/
theorem enablesOnlyAt_of_set_bits {v : Word} {t : Target}
    (h : ∀ f ∈ FieldName.all, v.getLsbD (LayoutHi.proposed.pos f) = true → t.Reads f) (c : Config) :
    enablesOnlyAt c v t := by
  intro hl _ t' k hne
  refine Config.catchEnabled_of_clear (fun f hf _ => ?_) k
  rw [hl, Bool.eq_false_iff]
  exact fun hset => hne (Target.eq_of_reads hf (h f f.mem_all hset))

end Sys2Proof.Machine

/-! SUPPORT. From what an arrival emits back to an outcome, and the outcomes of an arrival at Exception
level 3 named by level only. -/

namespace Sys2Proof.Machine

open Host

/-- Outcomes, at least one of them, resolve to `true` only if one of them is. -/
theorem true_mem_of_resolve {n : Nat} {outcomes : List Bool} (hne : outcomes ≠ [])
    (h : resolve n outcomes = true) : true ∈ outcomes := by
  by_contra hnone
  have hall : ∀ b ∈ outcomes, b = false := fun b hb => Bool.eq_false_iff.2 fun hb' => hnone (hb' ▸ hb)
  rw [resolve_all_false hne hall] at h
  cases h

/-- Two outcomes resolve to theirs if they agree and to the free draw if they differ. -/
theorem resolve_pair (n : Nat) (a b : Bool) : resolve n [a, b] = if a = b then a else Config.freeDraw n := by
  cases a <;> cases b <;> rfl

/-- An arrival is resolved from at least one outcome, since it sees the register's own value. -/
theorem State.visible_outcomes_ne_nil {s : State} {v : Word} {outcomes : Word → List Bool}
    (hne : outcomes v ≠ []) : (s.visibleValues v).flatMap outcomes ≠ [] := by
  obtain ⟨b, hb⟩ := List.exists_mem_of_ne_nil _ hne
  exact List.ne_nil_of_mem (List.mem_flatMap.2 ⟨v, State.mem_visibleValues.2 (.inl rfl), hb⟩)

/-- An arrival that adds to the outputs adds its own event, and a value it may see has an outcome that
enables it. -/
theorem State.presentArrival_emits {s s' : State} {v : Word} {outcomes : Word → List Bool} {o : Output}
    (hc : s.core = .on v) (hne : ∀ u, outcomes u ≠ []) (h : s.presentArrival outcomes o = .next s')
    (htrace : s'.trace ≠ s.trace) :
    s'.trace = s.trace ++ [o] ∧ ∃ u, s.mayBeSeen v u ∧ true ∈ outcomes u := by
  rw [State.presentArrival_on hc] at h
  cases h
  cases hres : resolve s.draws ((s.visibleValues v).flatMap outcomes) with
  | false => simp [hres, emission] at htrace
  | true =>
    refine ⟨by simp [emission], ?_⟩
    obtain ⟨u, hu, hb⟩ :=
      List.mem_flatMap.1 (true_mem_of_resolve (State.visible_outcomes_ne_nil (hne v)) hres)
    exact ⟨u, State.mem_visibleValues.1 hu, hb⟩

/-- The outcomes of an arrival named by level only are those of the values it may see at the targets whose
pair is consulted. -/
theorem State.mem_level3_outcomes {s : State} {v : Word} {k : Kind} {b : Bool} :
    b ∈ (s.visibleValues v).flatMap (fun u => s.cfg.el3Outcomes u k) ↔
      ∃ u t, s.mayBeSeen v u ∧ pairConsulted s.cfg t ∧ s.cfg.catchEnabled u t k = b := by
  simp [State.mem_visibleValues, mem_el3Outcomes]

/-- One value is decided by the pair the configuration names, and by both where it names none
(41_exception_catch_control.md R145). -/
theorem resolve_el3Outcomes (n : Nat) (c : Config) (v : Word) (k : Kind) :
    resolve n (c.el3Outcomes v k) =
      match c.el3PairRule with
      | .el3Pair => c.catchEnabled v .el3 k
      | .rootPair => c.catchEnabled v .rootEL3 k
      | .unstated =>
        if c.catchEnabled v .el3 k = c.catchEnabled v .rootEL3 k
        then c.catchEnabled v .el3 k else Config.freeDraw n := by
  unfold Config.el3Outcomes
  cases c.el3PairRule with
  | el3Pair => exact resolve_singleton n _
  | rootPair => exact resolve_singleton n _
  | unstated => exact resolve_pair n _ _

end Sys2Proof.Machine

/-! SUPPORT. The statements about the query and about arrivals at Exception level 3. -/

namespace Sys2Proof.Machine

open Host

/-- Settles O23: the six targets have two controls each, and each example value sets its own target's. -/
theorem pairsThatNameResetEntry : Obligations.PairsThatNameResetEntry :=
  fun c v =>
    ⟨finePair_of_entryControl (t := .rootEL3) rfl v, finePair_of_entryControl (t := .nonSecureEL2) rfl v,
      finePair_of_entryControl (t := .nonSecureEL1) rfl v, finePair_of_entryControl (t := .el3) rfl v,
      finePair_of_entryControl (t := .secureEL2) rfl v, finePair_of_entryControl (t := .secureEL1) rfl v,
      enablesOnlyAt_of_set_bits (by decide) c, enablesOnlyAt_of_set_bits (by decide) c,
      enablesOnlyAt_of_set_bits (by decide) c, enablesOnlyAt_of_set_bits (by decide) c,
      enablesOnlyAt_of_set_bits (by decide) c, enablesOnlyAt_of_set_bits (by decide) c⟩

/-- Settles O24: a Realm target is a pair at which no reset entry is caught. -/
theorem realmPairs : Obligations.RealmPairs :=
  fun c v =>
    ⟨finePair_of_entryControl (t := .realmEL2) rfl v, finePair_of_entryControl (t := .realmEL1) rfl v,
      enablesOnlyAt_of_set_bits (by decide) c, enablesOnlyAt_of_set_bits (by decide) c⟩

/-- Settles O25: the EL0 targets have no entry control. -/
theorem returnOnlyTargets : Obligations.ReturnOnlyTargets :=
  fun c v =>
    ⟨returnOnlyRows_of_entryControl (t := .realmEL0) rfl v,
      returnOnlyRows_of_entryControl (t := .nonSecureEL0) rfl v,
      returnOnlyRows_of_entryControl (t := .secureEL0) rfl v,
      enablesOnlyAt_of_set_bits (by decide) c, enablesOnlyAt_of_set_bits (by decide) c,
      enablesOnlyAt_of_set_bits (by decide) c⟩

/-- Settles O26. -/
theorem coarseControls : Obligations.CoarseControls :=
  fun _ v => ⟨coarseRows_of_entryControl rfl v, coarseRows_of_entryControl rfl v,
    coarseRows_of_entryControl rfl v, coarseRows_of_entryControl rfl v⟩

/-- Settles O27: the four bits are those of the named fields that are reserved in every configuration. -/
theorem namedRes0FieldsMeanNothing : Obligations.NamedRes0FieldsMeanNothing := by
  intro c v t k hl
  refine ⟨fun n hn => ?_, Config.catchEnabled_returnOnly rfl v _, Config.catchEnabled_returnOnly rfl v _⟩
  simp only [List.mem_cons, List.not_mem_nil, or_false] at hn
  rcases hn with rfl | rfl | rfl | rfl
  · exact Config.catchEnabled_invert_res0 (g := .nsr3) hl rfl v t k
  · exact Config.catchEnabled_invert_res0 (g := .nse3) hl rfl v t k
  · exact Config.catchEnabled_invert_res0 (g := .nse0) hl rfl v t k
  · exact Config.catchEnabled_invert_res0 (g := .se0) hl rfl v t k

/-- Settles O28. -/
theorem targetsAreIndependent : Obligations.TargetsAreIndependent :=
  fun _ _ _ _ => Config.catchEnabled_congr

/-- Settles O29: a control at its `res0` alternative is read as 0. -/
theorem res0ControlsReadAsZero : Obligations.Res0ControlsReadAsZero := by
  intro c v t
  refine ⟨fun e he => ⟨fun hE hR k => ?_, fun hE hR => ?_, fun hE hR => ?_⟩, fun he hR k => ?_⟩
  · refine Config.catchEnabled_of_clear (fun f hf hm => ?_) k
    rcases hf with hf | rfl
    · obtain rfl := Option.some.inj (he.symm.trans hf)
      exact absurd hE hm
    · exact absurd hR hm
  · have hc : c.variant e ≠ .coarse := by simp [hE]
    rw [Config.catchEnabled_fine_entry he hc, Config.catchEnabled_fine_resetEntry he hc,
      Config.catchEnabled_fine_return he hc, Config.fieldBit_of_fine hE, Config.fieldBit_of_res0 hR]
    simp
  · have hc : c.variant e ≠ .coarse := by simp [hE]
    rw [Config.catchEnabled_fine_entry he hc, Config.catchEnabled_fine_resetEntry he hc,
      Config.catchEnabled_fine_return he hc, Config.fieldBit_of_res0 hE, Config.fieldBit_of_fine hR]
    simp
  · rw [Config.catchEnabled_returnOnly he, Config.fieldBit_of_res0 hR, Bool.and_false]

/-- Settles O30: what is left is to name the targets at which a reset entry can be caught. -/
theorem resetEntryNeedsTheImplementationsChoice : Obligations.ResetEntryNeedsTheImplementationsChoice := by
  intro c v t h
  have hcaught := Config.catchesReset_of_catchEnabled h
  cases t with
  | rootEL3 => exact .inl ⟨rfl, hcaught⟩
  | nonSecureEL2 => exact .inr (.inl ⟨rfl, hcaught⟩)
  | nonSecureEL1 => exact .inr (.inr (.inl ⟨rfl, hcaught⟩))
  | el3 => exact .inr (.inr (.inr (.inl ⟨rfl, hcaught⟩)))
  | secureEL2 => exact .inr (.inr (.inr (.inr (.inl ⟨rfl, hcaught⟩))))
  | secureEL1 => exact .inr (.inr (.inr (.inr (.inr ⟨rfl, hcaught⟩))))
  | realmEL2 | realmEL1 | realmEL0 | nonSecureEL0 | secureEL0 => cases hcaught

/-- Settles O31: all ones sets both controls of a pair, so the return is not enabled, and the one control of
an EL0 target. -/
theorem cornerValuesOfTheQuery : Obligations.CornerValuesOfTheQuery := by
  refine fun c t => ⟨c.catchEnabled_zero t, fun _ hv => ?_⟩
  have hbit : ∀ f, t.Reads f → c.fieldBit 0xFFFFFFFF#32 f = true := fun f hf =>
    (Config.fieldBit_of_fine (Config.variant_of_reads hv hf) _).trans
      (BitVec.getLsbD_allOnes.trans (decide_eq_true (c.layoutHi.pos_lt f)))
  have hreturn := hbit _ (.inr rfl)
  cases he : t.entryControl with
  | none => simp [Config.catchEnabled_returnOnly he, hreturn]
  | some e =>
    have hc : c.variant e ≠ .coarse := by simp [Config.variant_of_reads hv (.inl he)]
    simp [Config.catchEnabled_fine_entry he hc, Config.catchEnabled_fine_return he hc, hbit e (.inl he), hreturn]

/-- Settles O34, for either kind of arrival. -/
theorem noEventUnlessEnabled : Obligations.NoEventUnlessEnabled := by
  intro s s' v k rest hc hs htrace
  refine ⟨fun t hin => ?_, fun hin => ?_⟩
  · rw [step_arrive hin] at hs
    obtain ⟨hout, u, hu, hb⟩ := State.presentArrival_emits (s := s.takeInput rest) hc
      (fun _ => List.cons_ne_nil _ _) hs htrace
    exact ⟨hout, u, hu, (List.mem_singleton.1 hb).symm⟩
  · rw [step_arriveAtLevel3 hin] at hs
    obtain ⟨hout, u, hu, hb⟩ := State.presentArrival_emits (s := s.takeInput rest) hc
      (fun _ => el3Outcomes_ne_nil _ _ _) hs htrace
    obtain ⟨t, ht, hon⟩ := mem_el3Outcomes.1 hb
    exact ⟨hout, u, t, hu, ht, hon⟩

/-- Settles O35: the register's value alone is seen, and its outcomes resolve as the pair rule says. -/
theorem level3ArrivalConsultsThePairRule : Obligations.Level3ArrivalConsultsThePairRule := by
  intro s v k rest hin hc hs
  have hsettled : (s.takeInput rest).settled := hs
  rw [step_arriveAtLevel3 hin, arriveAtLevel3, State.presentArrival_on (s := s.takeInput rest) hc,
    State.visibleValues_settled hsettled, List.flatMap_singleton, resolve_el3Outcomes]
  rfl

/-- Settles O57: the arrival is resolved from the outcomes of every value it may see at every target whose
pair is consulted. -/
theorem racingLevel3ArrivalAdmitsEveryOutcome : Obligations.RacingLevel3ArrivalAdmitsEveryOutcome := by
  intro s v k rest hin hc
  have houtcome {b : Bool} := State.mem_level3_outcomes (s := s.takeInput rest) (v := v) (k := k) (b := b)
  refine ⟨_, _, (step_arriveAtLevel3 hin).trans (State.presentArrival_on (s := s.takeInput rest) hc _ _),
    ⟨rfl, rfl⟩, rfl, rfl, fun hall => ?_, fun hnone => ?_, fun hsome hother => ?_⟩
  · refine resolve_all_true fun b hb => ?_
    obtain ⟨u, t, hu, ht, rfl⟩ := houtcome.1 hb
    exact hall u t hu ht
  · refine resolve_all_false (State.visible_outcomes_ne_nil (el3Outcomes_ne_nil _ v k)) fun b hb => ?_
    obtain ⟨u, t, hu, ht, rfl⟩ := houtcome.1 hb
    exact hnone u t hu ht
  · exact resolve_differ (houtcome.2 hsome) (houtcome.2 hother)

end Sys2Proof.Machine

/-! SUPPORT. What an arrival does in a settled state, what a set entry control says of a reset entry, and
which events are answered while the domain is on. -/

namespace Sys2Proof.Machine

open Host

/-! Arrivals. -/

/-- That the processing element runs settles no write and unsettles none. -/
theorem State.processorIsRunning_settled {s : State} : s.processorIsRunning.settled ↔ s.settled := by
  simp [State.settled]

/-- In a settled state an arrival is decided by the register's value alone. -/
theorem arrive_settled {s : State} {v : Word} (hc : s.core = .on v) (hs : s.settled) (t : Target) (k : Kind) :
    arrive t k s = .next { s.processorIsRunning with
      draws := s.draws + 1
      trace := s.trace ++ emission (s.cfg.catchEnabled v t k) (.exceptionCatch t k) } := by
  rw [arrive, State.presentArrival_on hc, State.visibleValues_settled hs, List.flatMap_singleton,
    resolve_singleton]

/-- An arrival is answered while the domain is on. -/
theorem State.presentArrival_completes {s : State} {v : Word} (hc : s.core = .on v)
    (outcomes : Word → List Bool) (o : Output) : ∃ s', s.presentArrival outcomes o = .next s' :=
  ⟨_, State.presentArrival_on hc outcomes o⟩

/-! Reset entries. -/

/-- The rows of the statements' table: a target's own entry control, and the implementation's choice there. -/
theorem entryControl_of_mem_resetEntryTargets {c : Config} {t : Target} {e : FieldName} {caught : Bool}
    (h : (t, e, caught) ∈ resetEntryTargets c) : t.entryControl = some e ∧ caught = c.catchesReset t := by
  simp only [resetEntryTargets, List.mem_cons, List.not_mem_nil, or_false, Prod.mk.injEq] at h
  rcases h with ⟨rfl, rfl, rfl⟩ | ⟨rfl, rfl, rfl⟩ | ⟨rfl, rfl, rfl⟩ | ⟨rfl, rfl, rfl⟩ | ⟨rfl, rfl, rfl⟩ |
    ⟨rfl, rfl, rfl⟩
  all_goals exact ⟨rfl, rfl⟩

/-- A set entry control enables the reset entry where the implementation catches it; a coarse one, only if
it covers reset entries (41_exception_catch_control.md R139, R140). -/
theorem catchEnabled_resetEntry_of_set {c : Config} {v : Word} {t : Target} {e : FieldName}
    (he : t.entryControl = some e) (hm : c.variant e ≠ .res0) (hset : v.getLsbD (c.layoutHi.pos e) = true) :
    c.catchEnabled v t .resetEntry =
      (c.catchesReset t && (c.variant e == .fine || c.coarseKinds.resetEntry)) := by
  have hbit : c.fieldBit v e = true := (Config.fieldBit_of_ne_res0 hm v).trans hset
  cases hv : c.variant e with
  | res0 => exact absurd hv hm
  | fine =>
    rw [Config.catchEnabled_fine_resetEntry he (by simp [hv]), hbit]
    simp
  | coarse =>
    rw [Config.catchEnabled_coarse he hv, hbit, Bool.true_and]
    exact Bool.and_comm _ _

/-! Events answered by a next state. -/

/-- With the domain on and System register accesses allowed, every operation completes, an external one
whatever the debug interface answers. -/
theorem exec_completes {s : State} {v : Word} (hc : s.core = .on v) (hy : s.sysAccess = .allowed)
    (i : Instr) : ∃ s', exec i s = .next s' := by
  cases i with
  | extRd =>
    cases ha : s.extAccess with
    | error => exact ⟨s.respond .extError, by simp only [exec, execExtRd, hc, ha]⟩
    | ro | rw => exact ⟨_, exec_extRd_on hc (by simp [ha])⟩
  | extWr w =>
    cases ha : s.extAccess with
    | error => exact ⟨s.respond .extError, by simp only [exec, execExtWr, State.extAnswer, hc, ha]⟩
    | ro => exact ⟨s.respond .extDone, by simp only [exec, execExtWr, State.extAnswer, hc, ha]⟩
    | rw => exact ⟨_, exec_extWr_rw hc ha w⟩
  | sys64Rd t => exact ⟨_, exec_sys64Rd_allowed hy hc t⟩
  | sys64Wr t x => exact ⟨_, exec_sys64Wr_allowed hy hc t x⟩
  | sys32Rd t => exact ⟨_, exec_sys32Rd_allowed hy hc t⟩
  | sys32Wr t x => exact ⟨_, exec_sys32Wr_allowed hy hc t x⟩

/-- With the domain on, an allowed request completes unless the decoder rejects it. -/
theorem performAccess_completes {s : State} {v : Word} (hc : s.core = .on v) (hy : s.sysAccess = .allowed)
    {f : List Byte} (hf : ∀ r, decode f ≠ .rejected r) : ∃ s', performAccess f s = .next s' := by
  cases hd : decode f with
  | op i =>
    rw [performAccess_op hd]
    exact exec_completes hc hy i
  | outside => exact ⟨_, performAccess_outside hd s⟩
  | rejected r => exact absurd hd (hf r)

theorem resetEvent_completes {s : State} {v : Word} (hc : s.core = .on v) (r : ResetKind) :
    ∃ s', resetEvent r s = .next s' := by
  cases hr : s.cfg.resetsOnKind r with
  | true => exact ⟨_, resetEvent_applied hc hr⟩
  | false => exact ⟨_, resetEvent_notApplied hc hr⟩

theorem processorRuns_completes (b : Bool) (s : State) : ∃ s', processorRuns b s = .next s' := by
  cases b
  · exact ⟨s.processorIsStopped, rfl⟩
  · exact ⟨s.processorIsRunning, rfl⟩

end Sys2Proof.Machine

/-! SUPPORT. The statements about settled arrivals, reset entries and steps that complete. -/

namespace Sys2Proof.Machine

open Host

/-- Settles O32. -/
theorem settledArrivalIsDecidedByTheRegister : Obligations.SettledArrivalIsDecidedByTheRegister :=
  fun s _ t k rest hin hc hs => (step_arrive hin).trans (arrive_settled (s := s.takeInput rest) hc hs t k)

/-- Settles O41: the reset leaves the register and keeps every write settled, so the reset entry is decided
by the control that was set before. -/
theorem warmResetKeepsTheCatchOfItsResetEntry : Obligations.WarmResetKeepsTheCatchOfItsResetEntry := by
  intro s v t e caught rest hmem hin hc hs hwarm hm hset
  obtain ⟨he, rfl⟩ := entryControl_of_mem_resetEntryTargets hmem
  have h1 : step s = .next (s.takeInput (.arrive t .resetEntry :: rest)).processorIsRunning :=
    (step_reset hin).trans (resetEvent_notApplied hc hwarm)
  have hs1 : (s.takeInput (.arrive t .resetEntry :: rest)).processorIsRunning.settled :=
    State.processorIsRunning_settled.2 hs
  refine ⟨_, _, h1, settledArrivalIsDecidedByTheRegister _ v t .resetEntry rest rfl hc hs1, hc, ?_⟩
  rw [← catchEnabled_resetEntry_of_set he hm hset]
  rfl

/-- Settles O49, one case per kind of event: an arrival needs the domain on, a request also the two
hypotheses about accesses. -/
theorem stepsCompleteWithTheDomainOn : Obligations.StepsCompleteWithTheDomainOn := by
  intro s v hc haccess
  cases hin : s.inputs with
  | nil => exact ⟨s, step_idle hin⟩
  | cons event rest =>
    have hc' : (s.takeInput rest).core = .on v := hc
    cases event with
    | access e y f =>
      obtain ⟨hy, hf⟩ := haccess e y f rest hin
      rw [step_access hin]
      exact performAccess_completes (s := s.takeAccess rest e y) hc hy hf
    | arrive t k =>
      rw [step_arrive hin]
      exact State.presentArrival_completes hc' _ _
    | arriveAtLevel3 k =>
      rw [step_arriveAtLevel3 hin]
      exact State.presentArrival_completes hc' _ _
    | reset r =>
      rw [step_reset hin]
      exact resetEvent_completes hc' r
    | powerOff => exact ⟨_, step_powerOff hin⟩
    | powerOn => exact ⟨_, (step_powerOn hin).trans (powerOn_on hc')⟩
    | processorRuns b =>
      rw [step_processorRuns hin]
      exact processorRuns_completes b _
    | synchronised => exact ⟨_, step_synchronised hin⟩

end Sys2Proof.Machine

/-! SUPPORT. The configuration is fixed: no event touches it (70_reset_and_hazards.md R181). -/

namespace Sys2Proof.Machine

open Host

theorem performAccess_cfg {f : List Byte} {s s' : State} (h : performAccess f s = .next s') :
    s'.cfg = s.cfg := by
  rcases performAccess_next h with ⟨i, -, hi⟩ | ⟨-, rfl⟩
  · exact (exec_next_frame hi).1
  · rfl

theorem State.presentArrival_cfg {s s' : State} {outcomes : Word → List Bool} {o : Output}
    (h : s.presentArrival outcomes o = .next s') : s'.cfg = s.cfg := by
  obtain ⟨v, -, rfl⟩ := State.presentArrival_next h
  rfl

theorem resetEvent_cfg {r : ResetKind} {s s' : State} (h : resetEvent r s = .next s') :
    s'.cfg = s.cfg := by
  rcases resetEvent_next h with rfl | rfl | rfl <;> rfl

theorem powerOff_cfg {s s' : State} (h : powerOff s = .next s') : s'.cfg = s.cfg := by
  cases h
  rfl

theorem powerOn_cfg {s s' : State} (h : powerOn s = .next s') : s'.cfg = s.cfg := by
  rcases powerOn_next h with rfl | rfl <;> rfl

theorem processorRuns_cfg {b : Bool} {s s' : State} (h : processorRuns b s = .next s') :
    s'.cfg = s.cfg := by
  rcases processorRuns_next h with rfl | rfl <;> rfl

theorem synchronised_cfg {s s' : State} (h : synchronised s = .next s') : s'.cfg = s.cfg := by
  cases h
  rfl

/-- Every step keeps the configuration, one case per kind of event. -/
theorem step_cfg {s s' : State} (hs : step s = .next s') : s'.cfg = s.cfg := by
  cases hin : s.inputs with
  | nil =>
    rw [step_idle hin] at hs
    cases hs
    rfl
  | cons event rest =>
    cases event with
    | access e y f =>
      rw [step_access hin] at hs
      exact performAccess_cfg (s := s.takeAccess rest e y) hs
    | arrive t k =>
      rw [step_arrive hin] at hs
      exact State.presentArrival_cfg (s := s.takeInput rest) hs
    | arriveAtLevel3 k =>
      rw [step_arriveAtLevel3 hin] at hs
      exact State.presentArrival_cfg (s := s.takeInput rest) hs
    | reset r =>
      rw [step_reset hin] at hs
      exact resetEvent_cfg (s := s.takeInput rest) hs
    | powerOff =>
      rw [step_powerOff hin] at hs
      exact powerOff_cfg (s := s.takeInput rest) hs
    | powerOn =>
      rw [step_powerOn hin] at hs
      exact powerOn_cfg (s := s.takeInput rest) hs
    | processorRuns b =>
      rw [step_processorRuns hin] at hs
      exact processorRuns_cfg (s := s.takeInput rest) hs
    | synchronised =>
      rw [step_synchronised hin] at hs
      exact synchronised_cfg (s := s.takeInput rest) hs

/-! Runs, of any machine. -/

/-- A run of one step more that answers a next state takes that step first. -/
theorem run_succ_next {M : Core} {n : Nat} {s s' : M.State} (h : M.run (n + 1) s = .next s') :
    ∃ s1, M.step s = .next s1 ∧ M.run n s1 = .next s' := by
  unfold Core.run at h
  split at h
  · next s1 hs => exact ⟨s1, hs, h⟩
  · cases h
  · cases h

/-- What every step keeps, every run keeps. -/
theorem run_keeps {M : Core} {p : M.State → Prop} (hstep : ∀ s s', p s → M.step s = .next s' → p s')
    {n : Nat} {s s' : M.State} (hp : p s) (h : M.run n s = .next s') : p s' := by
  induction n generalizing s with
  | zero =>
    cases h
    exact hp
  | succ n ih =>
    obtain ⟨s1, hs, hrest⟩ := run_succ_next h
    exact ih (hstep s s1 hp hs) hrest

end Sys2Proof.Machine

/-! SUPPORT. The record of order, event by event: what a step puts on it and takes off it, and an arrival
that finds on it a value that disagrees with the register's (70_reset_and_hazards.md R186). -/

namespace Sys2Proof.Machine

open Host

/-! What a read and a synchronisation leave on record. -/

/-- A read leaves the newest write on record if it is the processor's, or the processing element has run
since. -/
theorem mem_settledByRead_cons {w : UnsettledWrite} {ws : List UnsettledWrite}
    (h : w.writer = .processor ∨ w.peRan = true) : w ∈ settledByRead (w :: ws) := by
  rw [settledByRead_keeps h]
  exact List.mem_cons_self

/-- A synchronisation leaves the newest write on record if it is the debugger's. -/
theorem mem_settledBySync_cons {w : UnsettledWrite} {ws : List UnsettledWrite}
    (h : w.writer = .debugger) : w ∈ settledBySync (w :: ws) := by
  rw [settledBySync, List.takeWhile_cons_of_pos (by rw [h]; rfl)]
  exact List.mem_cons_self

/-- A synchronisation leaves nothing on record if the newest write is the processor's. -/
theorem settledBySync_cons_processor {w : UnsettledWrite} {ws : List UnsettledWrite}
    (h : w.writer = .processor) : settledBySync (w :: ws) = [] :=
  settledBySync_append (ws := []) nofun h

/-- A read answered `ERROR` does nothing but answer. -/
theorem exec_extRd_error {s : State} (h : s.core = .off ∨ s.extAccess = .error) :
    exec .extRd s = .next (s.respond .extError) := by
  cases hc : s.core with
  | off => exact exec_ext_off hc (.inl rfl)
  | on v =>
    have ha : s.extAccess = .error := h.resolve_left (by simp [hc])
    simp only [exec, execExtRd, hc, ha]

/-- The record after a read that is answered with the value. -/
theorem exec_extRd_record {s s' : State} (hc : s.core ≠ .off) (ha : s.extAccess ≠ .error)
    (h : exec .extRd s = .next s') : s'.unsettled = settledByRead s.unsettled := by
  cases hv : s.core with
  | off => exact absurd hv hc
  | on v =>
    rw [exec_extRd_on hv ha] at h
    cases h
    rfl

/-- A performed write through either System register view. -/
theorem exec_processorWrite {w : Instr} {s : State} {old : Word}
    (hw : (∃ n x, w = .sys64Wr n x) ∨ ∃ n x, w = .sys32Wr n x) (hy : s.sysAccess = .allowed)
    (hc : s.core = .on old) :
    exec w s = .next (s.processorIsRunning.writeRegister .processor (writtenValue w)) := by
  rcases hw with ⟨n, x, rfl⟩ | ⟨n, x, rfl⟩
  · exact exec_sys64Wr_allowed hy hc n x
  · exact exec_sys32Wr_allowed hy hc n x

/-! The next state of each event that R186 speaks of. -/

section

variable {s : State} {rest : List Input}

/-- The debugger writes: its write goes on record, with whether the processing element runs. -/
theorem step_debuggerWrite {old v : Word} {y : SysAccess} {f : List Byte} (hc : s.core = .on old)
    (hf : decode f = .op (.extWr v)) (hin : s.inputs = .access .rw y f :: rest) :
    step s = .next { s with
      inputs := rest, extAccess := .rw, sysAccess := y
      core := .on (v &&& s.cfg.wmask)
      trace := s.trace ++ [.extDone]
      unsettled := { before := old, writer := .debugger, peRan := s.peRunning } :: s.unsettled } := by
  have hc' : (s.takeAccess rest .rw y).core = .on old := hc
  rw [step_access hin, performAccess_op hf, exec_extWr_rw hc' rfl, State.writeRegister_on hc']
  rfl

/-- The debugger reads and is answered: the value is shown, and the record is settled as far as a read does. -/
theorem step_debuggerRead {v : Word} {a : ExtAccess} {y : SysAccess} {f : List Byte} (hc : s.core = .on v)
    (ha : a ≠ .error) (hf : decode f = .op .extRd) (hin : s.inputs = .access a y f :: rest) :
    step s = .next { s with
      inputs := rest, extAccess := a, sysAccess := y
      trace := s.trace ++ [.extValue v]
      unsettled := settledByRead s.unsettled } := by
  have hc' : (s.takeAccess rest a y).core = .on v := hc
  rw [step_access hin, performAccess_op hf, exec_extRd_on hc' ha]
  rfl

/-- The processing element writes: it runs, and has run since every write on record. -/
theorem step_processorWrite {old : Word} {w : Instr} {a : ExtAccess} {f : List Byte} (hc : s.core = .on old)
    (hw : (∃ n x, w = .sys64Wr n x) ∨ ∃ n x, w = .sys32Wr n x) (hf : decode f = .op w)
    (hin : s.inputs = .access a .allowed f :: rest) :
    step s = .next { s with
      inputs := rest, extAccess := a, sysAccess := .allowed
      core := .on (writtenValue w &&& s.cfg.wmask)
      peRunning := true
      unsettled := { before := old, writer := .processor, peRan := true } ::
        s.unsettled.map UnsettledWrite.markRan } := by
  have hc' : (s.takeAccess rest a .allowed).core = .on old := hc
  rw [step_access hin, performAccess_op hf, exec_processorWrite hw rfl hc',
    State.writeRegister_on (s := (s.takeAccess rest a .allowed).processorIsRunning) hc']
  rfl

theorem step_processorStarts (hin : s.inputs = .processorRuns true :: rest) :
    step s = .next { s with
      inputs := rest, peRunning := true, unsettled := s.unsettled.map UnsettledWrite.markRan } :=
  step_processorRuns hin

theorem step_processorStops (hin : s.inputs = .processorRuns false :: rest) :
    step s = .next { s with inputs := rest, peRunning := false } :=
  step_processorRuns hin

/-- A synchronisation touches nothing but the record. -/
theorem step_settlesBySync (hin : s.inputs = .synchronised :: rest) :
    step s = .next { s with inputs := rest, unsettled := settledBySync s.unsettled } :=
  step_synchronised hin

/-- An arrival that finds on record a value that disagrees with the register's is the free draw. -/
theorem step_arrive_contested {v : Word} {t : Target} {k : Kind} {w : UnsettledWrite}
    (hin : s.inputs = .arrive t k :: rest) (hc : s.core = .on v) (hd : s.cfg.effectDelay = .unstated)
    (hw : w ∈ s.unsettled) (hne : s.cfg.catchEnabled w.before t k ≠ s.cfg.catchEnabled v t k) :
    step s = .next { s with
      inputs := rest
      trace := s.trace ++ emission (Config.freeDraw s.draws) (.exceptionCatch t k)
      unsettled := s.unsettled.map UnsettledWrite.markRan
      peRunning := true
      draws := s.draws + 1 } := by
  have hold : (s.takeInput rest).mayBeSeen v w.before := .inr ⟨hd, w, hw, rfl⟩
  have hdraw := State.resolve_visible_differ (f := (s.cfg.catchEnabled · t k)) hold (.inl rfl) hne s.draws
  rw [← hdraw]
  exact (step_arrive hin).trans (State.presentArrival_on (s := s.takeInput rest) hc _ _)

end

end Sys2Proof.Machine

/-! SUPPORT. The statements about runs, concurrent writers and the order of a write and an arrival. -/

namespace Sys2Proof.Machine

open Host

/-- Settles O48, from what each event leaves of the configuration. -/
theorem noStepChangesTheConfiguration : Obligations.NoStepChangesTheConfiguration :=
  fun _ _ => step_cfg

/-- Settles O50: legality and the configuration are kept by every step, and so along every run. -/
theorem everyRunStaysLegal : Obligations.EveryRunStaysLegal := by
  intro n s s' hlegal
  refine run_keeps (M := Sys2Proof.core) (p := fun u => u.legal = true ∧ u.cfg = s.cfg) ?_ ⟨hlegal, rfl⟩
  rintro u u' ⟨hu, hcfg⟩ hstep
  exact ⟨step_keeps_legal hu hstep, (step_cfg hstep).trans hcfg⟩

/-- Settles O20: the first write leaves a register and the permissions for the second, which replaces the
whole word. -/
theorem lastWriterWins : Obligations.LastWriterWins := by
  intro s old w w' hc ha hy hw hw'
  obtain ⟨s1, h1⟩ := exec_write_completes hw hc ha hy
  obtain ⟨hcfg1, hext1, hsys1⟩ := exec_next_frame h1
  have hc1 := exec_write_core hw hc ha h1
  have ha1 : s1.extAccess = .rw := hext1.trans ha
  obtain ⟨s2, h2⟩ := exec_write_completes hw' hc1 ha1 (hsys1.trans hy)
  refine ⟨s1, s2, h1, h2, ?_⟩
  rw [← hcfg1]
  exact exec_write_core hw' hc1 ha1 h2

/-- Settles O56. -/
theorem runningNoticesChangeOnlyTheRecord : Obligations.RunningNoticesChangeOnlyTheRecord :=
  fun _ _ => ⟨step_processorStarts, step_processorStops⟩

/-- Settles O51: only a read that is answered with the value can settle anything. -/
theorem readBackSettlesOnlyTheDebuggersOwnWrite : Obligations.ReadBackSettlesOnlyTheDebuggersOwnWrite := by
  intro s s' w older hrecord h
  refine ⟨fun hc ha hd hr => ?_, fun hkeep => ?_⟩
  · rw [exec_extRd_record hc ha h, hrecord, settledByRead_settles hd hr]
  · by_cases herror : s.core = .off ∨ s.extAccess = .error
    · rw [exec_extRd_error herror] at h
      cases h
      rfl
    · obtain ⟨hc, ha⟩ := not_or.1 herror
      have hw : w.writer = .processor ∨ w.peRan = true := by tauto
      rw [exec_extRd_record hc ha h, hrecord, settledByRead_keeps hw]

/-- Settles O52, one clause per shape of the record. -/
theorem synchronisationSettlesUpToTheProcessorsWrite :
    Obligations.SynchronisationSettlesUpToTheProcessorsWrite := by
  intro s rest hin
  refine ⟨fun newer older w hrecord hd hp => ?_, fun hd => ?_⟩
  · rw [step_settlesBySync hin, hrecord, settledBySync_append hd hp]
  · rw [step_settlesBySync hin, settledBySync_keeps hd]

/-- Settles O37: the read-back empties the record, so the arrival sees the new value alone. -/
theorem readBackOrdersTheDebuggersWrite : Obligations.ReadBackOrdersTheDebuggersWrite := by
  intro s old v a y y' f f' t k rest hc hstopped ha hf hf' hin
  refine ⟨_, _, _, step_debuggerWrite hc hf hin, step_debuggerRead rfl ha hf' rfl,
    settledArrivalIsDecidedByTheRegister _ _ t k rest rfl rfl (.inr ?_), rfl, ?_⟩
  · exact settledByRead_settles rfl hstopped
  · simp

/-- Settles O38: the synchronisation empties the record, whose newest write is the processor's. -/
theorem synchronisationOrdersTheProcessorsWrite : Obligations.SynchronisationOrdersTheProcessorsWrite := by
  intro s old a w f t k rest hc hf hw hin
  have hempty : settledBySync ({ before := old, writer := .processor, peRan := true } ::
      s.unsettled.map UnsettledWrite.markRan) = [] := settledBySync_cons_processor rfl
  exact ⟨_, _, _, step_processorWrite hc hw hf hin, step_settlesBySync rfl,
    settledArrivalIsDecidedByTheRegister _ _ t k rest rfl rfl (.inr hempty), rfl, rfl⟩

/-- Settles O53: since the processing element has run, the read leaves the write on record. -/
theorem readBackAfterTheProcessorRanOrdersNothing : Obligations.ReadBackAfterTheProcessorRanOrdersNothing := by
  intro s old v a y y' f f' t k rest hc hd ha hf hf' hne hin
  refine ⟨_, _, _, _, step_debuggerWrite hc hf hin, step_processorStarts rfl,
    step_debuggerRead rfl ha hf' rfl,
    step_arrive_contested (w := { before := old, writer := .debugger, peRan := true }) rfl rfl hd
      (mem_settledByRead_cons (.inr rfl)) hne, rfl, ?_⟩
  simp

/-- Settles O54: the debugger's read leaves a write of the processor's on record. -/
theorem debuggersReadOfTheProcessorsWriteOrdersNothing :
    Obligations.DebuggersReadOfTheProcessorsWriteOrdersNothing := by
  intro s old a a' y' w f f' t k rest hc hd ha hw hf hf' hne hin
  exact ⟨_, _, _, step_processorWrite hc hw hf hin, step_debuggerRead rfl ha hf' rfl,
    step_arrive_contested (w := { before := old, writer := .processor, peRan := true }) rfl rfl hd
      (mem_settledByRead_cons (.inl rfl)) hne, rfl, rfl⟩

/-- Settles O55: the synchronisation leaves the debugger's newest write on record. -/
theorem synchronisationOrdersNoWriteOfTheDebuggers :
    Obligations.SynchronisationOrdersNoWriteOfTheDebuggers := by
  intro s old v y f t k rest hc hd hf hne hin
  exact ⟨_, _, _, step_debuggerWrite hc hf hin, step_settlesBySync rfl,
    step_arrive_contested (w := { before := old, writer := .debugger, peRan := s.peRunning }) rfl rfl hd
      (mem_settledBySync_cons rfl) hne, rfl, rfl⟩

end Sys2Proof.Machine

/-! SUPPORT. The frame of every operation is read back, and its request selects the operation
(30_encoding.md R68). -/

namespace Sys2Proof

/-- The encoder's frame holds the operation's request: a register number the state has fits the eight bits
the frame gives it. -/
theorem parseFrame_encode {i : Instr} (h : i.wf = true) : parseFrame (encode i) = some (requestFor i) := by
  cases i with
  | extRd => exact parseFrame_frameOf_ext .read _ .four 0#32
  | extWr v => exact parseFrame_frameOf_ext .write _ .four v
  | sys64Rd t =>
    have ht : t < 32 := of_decide_eq_true h
    rw [encode, requestFor, parseFrame_frameOf_sys64, Nat.mod_eq_of_lt (by omega)]
  | sys64Wr t x =>
    have ht : t < 32 := of_decide_eq_true h
    rw [encode, requestFor, parseFrame_frameOf_sys64, Nat.mod_eq_of_lt (by omega)]
  | sys32Rd t =>
    have ht : t < 16 := of_decide_eq_true h
    rw [encode, requestFor, parseFrame_frameOf_sys32, Nat.mod_eq_of_lt (by omega)]
  | sys32Wr t x =>
    have ht : t < 16 := of_decide_eq_true h
    rw [encode, requestFor, parseFrame_frameOf_sys32, Nat.mod_eq_of_lt (by omega)]

theorem checked_of_wf {i : Instr} (h : i.wf = true) : checked i = .op i :=
  if_pos h

/-- The request of an operation selects that operation and no other. -/
theorem classify_requestFor {i : Instr} (h : i.wf = true) : classify (requestFor i) = .op i := by
  cases i with
  | extRd => exact classify_ext_register (isRegisterAccess_iff.2 ⟨rfl, rfl⟩) .read 0#32
  | extWr v => exact classify_ext_register (isRegisterAccess_iff.2 ⟨rfl, rfl⟩) .write v
  | sys64Rd t => exact checked_of_wf h
  | sys64Wr t x => exact checked_of_wf h
  | sys32Rd t => exact checked_of_wf h
  | sys32Wr t x => exact checked_of_wf h

theorem decode_encode {i : Instr} (h : i.wf = true) : decode (encode i) = .op i := by
  simp only [decode, parseFrame_encode h, classify_requestFor h]

/-- Bytes written out by hand decode to the operation whose frame they are. -/
theorem decode_of_eq_encode {f : List Byte} {i : Instr} (hf : f = encode i) (h : i.wf = true) :
    decode f = .op i := by
  rw [hf, decode_encode h]

theorem decodeTableWord_of_op {nbits w : Nat} {i : Instr} (h : decode (tableFrame nbits w) = .op i) :
    decodeTableWord nbits w = some i := by
  simp only [decodeTableWord, h]

theorem decodeTableWord_of_outside {nbits w : Nat} (h : decode (tableFrame nbits w) = .outside) :
    decodeTableWord nbits w = none := by
  simp only [decodeTableWord, h]

end Sys2Proof

/-! SUPPORT. What the write mask depends on: the layout, the variants and what RES0 bits are, and no other
parameter (40_register_access.md R88). -/

namespace Sys2Proof

theorem Config.variant_congr {c c' : Config} (h : c.variants = c'.variants) (f : FieldName) :
    c.variant f = c'.variant f := by
  cases f <;> simp only [Config.variant, h]

theorem Config.activeMask_congr {c c' : Config} (hl : c.layoutHi = c'.layoutHi)
    (hv : c.variants = c'.variants) : c.activeMask = c'.activeMask := by
  refine BitVec.eq_of_getLsbD_eq fun n hn => ?_
  rw [Bool.eq_iff_iff, c.getLsbD_activeMask hn, c'.getLsbD_activeMask hn, hl]
  simp only [Config.variant_congr hv]

end Sys2Proof

/-! SUPPORT. The accesses that are ignored, answered `ERROR` or refused, and the request the decoder rejects. -/

namespace Sys2Proof.Machine

open Host

/-- A write the environment answers `RO` to is ignored without error (40_register_access.md R87). -/
theorem exec_extWr_ro {s : State} {old : Word} (hc : s.core = .on old) (ha : s.extAccess = .ro) (v : Word) :
    exec (.extWr v) s = .next (s.respond .extDone) := by
  simp only [exec, execExtWr, State.extAnswer, hc, ha]

/-- A write answered `ERROR` does nothing but answer (40_register_access.md R86). -/
theorem exec_extWr_error {s : State} (h : s.core = .off ∨ s.extAccess = .error) (v : Word) :
    exec (.extWr v) s = .next (s.respond .extError) := by
  cases hc : s.core with
  | off => exact exec_ext_off hc (.inr ⟨v, rfl⟩)
  | on old =>
    have ha : s.extAccess = .error := h.resolve_left (by simp [hc])
    simp only [exec, execExtWr, State.extAnswer, hc, ha]

/-- A System register access that is not allowed is refused, whatever it would go on to do
(40_register_access.md section 3). -/
theorem State.sysRegisterAccess_notAllowed {s : State} (h : s.sysAccess = .notAllowed)
    (go : Word → State → Outcome State Fault Refusal) :
    s.sysRegisterAccess go = .refused .sysAccessNotAllowed := by
  simp only [State.sysRegisterAccess, h]

theorem exec_sysRegister_notAllowed {i : Instr} {s : State} (hi : i ≠ .extRd ∧ ∀ v, i ≠ .extWr v)
    (h : s.sysAccess = .notAllowed) : exec i s = .refused .sysAccessNotAllowed := by
  obtain ⟨hrd, hwr⟩ := hi
  cases i with
  | extRd => exact absurd rfl hrd
  | extWr v => exact absurd rfl (hwr v)
  | sys64Rd t => rw [exec, execSys64Rd, State.sysRegisterAccess_notAllowed h]
  | sys64Wr t x => rw [exec, execSys64Wr, State.sysRegisterAccess_notAllowed h]
  | sys32Rd t => rw [exec, execSys32Rd, State.sysRegisterAccess_notAllowed h]
  | sys32Wr t x => rw [exec, execSys32Wr, State.sysRegisterAccess_notAllowed h]

/-- A processor's write in full: it runs, has run since every write on record, and its own goes in front. -/
theorem State.processorWrite_on {s : State} {old : Word} (hc : s.core = .on old) (v : Word) :
    s.processorIsRunning.writeRegister .processor v = { s with
      core := .on (v &&& s.cfg.wmask)
      peRunning := true
      unsettled := { before := old, writer := .processor, peRan := true } ::
        s.unsettled.map UnsettledWrite.markRan } :=
  State.writeRegister_on (s := s.processorIsRunning) hc .processor v

/-- A request the decoder rejects is refused for the decoder's reason. -/
theorem performAccess_rejected {f : List Byte} {r : Reject} (h : decode f = .rejected r) (s : State) :
    performAccess f s = .refused (refusalOf r) := by
  simp only [performAccess, h]

/-- An external access that overlaps the register without being the aligned 32-bit one stops the step
(40_register_access.md R92). -/
theorem step_overlapsBadly {s : State} {e : ExtAccess} {y : SysAccess} {dir : Direction} {d : Dword}
    {w : AccessWidth} {v : Word} {rest : List Input}
    (hin : s.inputs = .access e y (frameOf (.ext dir d w v)) :: rest) (hbad : overlapsBadly d w) :
    step s = .refused .partialAccess := by
  obtain ⟨htouch, hreg⟩ := overlapsBadly_iff.1 hbad
  have hd : decode (frameOf (.ext dir d w v)) = .rejected .partialAccess :=
    (decode_frameOf_ext dir d w v).trans (classify_ext_partial htouch hreg dir v)
  exact (step_access hin).trans (performAccess_rejected hd _)

end Sys2Proof.Machine

/-! SUPPORT. The statements about the frames, the write mask and each of the six operations. -/

namespace Sys2Proof.Machine

open Host

/-- Settles O1: the frame reads back as the operation's request, which selects the operation. -/
theorem decodeReadsBackEncoding : Obligations.DecodeReadsBackEncoding :=
  fun _ => decode_encode

/-- Settles O7: the bits of the mask are those of the meaning mask, or all of them. -/
theorem writeMaskBits : Obligations.WriteMaskBits := by
  intro c n _ hn
  rw [c.getLsbD_wmask hn, Bool.or_eq_true, beq_iff_eq, c.getLsbD_activeMask hn]

/-- Settles O10, one clause per answer and one for the accesses that overlap the register wrongly. -/
theorem externalReadReturnsTheWord : Obligations.ExternalReadReturnsTheWord := by
  refine fun s => ⟨fun v hc ha => ?_, fun h => ?_, fun e y d w v rest hin hbad => ?_⟩
  · exact exec_extRd_on hc ha
  · exact exec_extRd_error h
  · exact step_overlapsBadly hin hbad

/-- Settles O11, one clause per answer. -/
theorem externalWriteReplacesTheWord : Obligations.ExternalWriteReplacesTheWord := by
  refine fun s v => ⟨fun old hc ha => ?_, fun old hc ha => ?_, fun h => ?_⟩
  · rw [exec_extWr_rw hc ha, State.writeRegister_on hc]
    rfl
  · exact exec_extWr_ro hc ha v
  · exact exec_extWr_error h v

/-- Settles O12: the value for `Xt` is the register extended, whose low word is the register. -/
theorem sys64ReadGivesTheWord : Obligations.Sys64ReadGivesTheWord := by
  refine fun s t => ⟨exec_sysRegister_notAllowed ⟨nofun, nofun⟩, fun v hy hc => ?_⟩
  have hlow : (zext64 v).extractLsb' 0 32 = v :=
    (lowWord_eq_extractLsb' _).symm.trans (lowWord_zext64 v)
  exact ⟨zext64 v, hlow, exec_sys64Rd_allowed hy hc t⟩

/-- Settles O13: what is written is the low word of `Xt`. -/
theorem sys64WriteTakesTheLowWord : Obligations.Sys64WriteTakesTheLowWord := by
  refine fun s t x => ⟨exec_sysRegister_notAllowed ⟨nofun, nofun⟩, fun old hy hc => ?_⟩
  rw [exec_sys64Wr_allowed hy hc, State.processorWrite_on hc, lowWord_eq_extractLsb']

/-- Settles O14. -/
theorem sys32ReadGivesTheWord : Obligations.Sys32ReadGivesTheWord :=
  fun _ t => ⟨exec_sysRegister_notAllowed ⟨nofun, nofun⟩,
    fun _ hy hc => exec_sys32Rd_allowed hy hc t⟩

/-- Settles O15. -/
theorem sys32WriteReplacesTheWord : Obligations.Sys32WriteReplacesTheWord := by
  refine fun s t x => ⟨exec_sysRegister_notAllowed ⟨nofun, nofun⟩, fun old hy hc => ?_⟩
  rw [exec_sys32Wr_allowed hy hc, State.processorWrite_on hc]

/-- Settles O2: each frame but the second is, byte by byte, the encoder's for the operation named; the
second is the frame of an access just above the register. -/
theorem writtenOutFramesDecode : Obligations.WrittenOutFramesDecode := by
  have habove : decode (tableFrame 16 0x09C) = .outside :=
    otherAccessesArePassedOn.1 .read 0x09C#64 .four 0#32 (.inl le_rfl)
  refine ⟨decodeTableWord_of_op (decode_of_eq_encode ?_ rfl), decodeTableWord_of_outside habove,
    decode_of_eq_encode ?_ rfl, decode_of_eq_encode ?_ rfl, decode_of_eq_encode ?_ rfl,
    decode_of_eq_encode ?_ rfl, decode_of_eq_encode ?_ rfl⟩
  all_goals decide

/-- Settles O8: the mask of the proposed configuration is computed, and any other with its layout and
variants has the same. -/
theorem defaultWriteMasks : Obligations.DefaultWriteMasks := by
  intro c hl hv
  have hactive : c.activeMask = 0x88767F6E#32 := calc
    c.activeMask = Config.proposed.activeMask := Config.activeMask_congr hl hv
    _ = 0x88767F6E#32 := by decide
  unfold Config.wmask
  cases c.res0Kind with
  | razWi => exact hactive
  | storage => rfl

/-- Settles O44. -/
theorem stepRunsTheDecodedOperation : Obligations.StepRunsTheDecodedOperation :=
  fun _ _ _ _ _ _ hin hd => (step_access hin).trans (performAccess_op hd _)

end Sys2Proof.Machine
